-- ==== Sys2Proof/Word.lean ====
section
/-! DEFINITION. The widths of FCE (R5). A value is an unsigned bit vector; nothing in FCE is signed (R8). -/

namespace Sys2Proof

/-- A Block, the IV, the chaining state, a round state: 8 bits (R5 `BLOCK_W`). -/
abbrev Block := BitVec 8

/-- The Key: 10 bits (R5 `KEY_W`). -/
abbrev Key := BitVec 10

/-- A subkey, `K1` or `K2`: 8 bits (R5 `SUBKEY_W`). -/
abbrev Subkey := BitVec 8

/-- Half of a block: 4 bits (R5 `HALF_W`). -/
abbrev Half := BitVec 4

/-- Half of the permuted key: 5 bits (R5 `KEYHALF_W`). -/
abbrev KeyHalf := BitVec 5

/-- The integer container of the key, `KEY16`: 16 bits (R5 `KEY_CONTAINER_W`, R50). -/
abbrev KeyContainer := BitVec 16

/-- The operation code `OP`: 2 bits (R16, R52). -/
abbrev OpCode := BitVec 2

/-- The header word of format `H`: 26 bits (R49, R51). -/
abbrev HeaderWord := BitVec 26

end Sys2Proof
end

