-- ==== Sys2Proof/Config.lean ====
section
/-! DEFINITION. The one parameter of FCE that changes what it computes: the constant tables `TABLES` (R6, R21).
`CACHE` and `DECRYPT_PARALLEL` are unobservable (R187, R185): their permitted variants are in Machine/Variants.lean.
`TRANSPORT` is open (D5) and no rule depends on it. -/

namespace Sys2Proof

/-- An index table with `n` entries, each a cell index below the source width `w`: the length and range check of
R70 held by the type. -/
abbrev IndexTable (n w : Nat) := Vector (Fin w) n

/-- An S-box, row first: four rows of four 2-bit entries (R76, R81), the check of R76 held by the type. -/
abbrev SBoxTable := Vector (Vector (BitVec 2) 4) 4

/-- `TABLES` (R21) with the lengths and source widths of R31. What R71 to R75 ask of the entries is
`Tables.wellFormed` (Machine/Tables.lean). -/
structure Tables where
  p10   : IndexTable 10 10
  p8    : IndexTable 8 10
  ip    : IndexTable 8 8
  ipinv : IndexTable 8 8
  ep    : IndexTable 8 8
  p4    : IndexTable 4 4
  s0    : SBoxTable
  s1    : SBoxTable
  deriving DecidableEq, Repr

/-- A table record as a designer hands it in, before the configuration check of R77: nothing is known about
lengths or ranges. -/
structure RawTables where
  p10   : List Nat
  p8    : List Nat
  ip    : List Nat
  ipinv : List Nat
  ep    : List Nat
  p4    : List Nat
  s0    : List (List Nat)
  s1    : List (List Nat)
  deriving DecidableEq, Repr

/-- The six index tables by name (R31). -/
inductive TableName where
  | p10 | p8 | ip | ipinv | ep | p4
  deriving DecidableEq, Repr

/-- The two S-boxes by name. -/
inductive SBoxName where
  | s0 | s1
  deriving DecidableEq, Repr

end Sys2Proof
end

