-- ==== Sys2Proof/Machine/Tables.lean ====
section
/-! DEFINITION. The read primitives of `TABLES` (R33, R34), the configuration check (R70 to R77) and the default
entries `TABLES_STD` (R84). -/

namespace Sys2Proof

/-- `TabRead(T, i)`: entry `i` of index table `T` (R33); total, since the index and the entry are in range by type. -/
def tabRead {n w : Nat} (t : IndexTable n w) (i : Fin n) : Fin w := t[i]

/-- `SboxRead(S, r, c)`: row `r`, column `c` (R34, R81). -/
def sboxRead (s : SBoxTable) (r c : Fin 4) : BitVec 2 := (s[r])[c]

/-- An S-box of `TABLES` by name. -/
def Tables.sbox (t : Tables) : SBoxName → SBoxTable
  | .s0 => t.s0
  | .s1 => t.s1

/-- The entries of a named index table, entry 0 first (R59). -/
def Tables.entries (t : Tables) : TableName → List Nat
  | .p10 => t.p10.toList.map Fin.val
  | .p8 => t.p8.toList.map Fin.val
  | .ip => t.ip.toList.map Fin.val
  | .ipinv => t.ipinv.toList.map Fin.val
  | .ep => t.ep.toList.map Fin.val
  | .p4 => t.p4.toList.map Fin.val

/-- No entry stands twice. -/
def distinctEntries {n w : Nat} (t : IndexTable n w) : Bool :=
  decide (∀ i j : Fin n, tabRead t i = tabRead t j → i = j)

/-- R71 to R75 (R70 and R76 hold by type): `P10`, `IP` and `P4` list every index once, `P8` lists eight distinct
indices, `IP[IPINV[i]] = i`, and every `EP` entry lies in `[4,8)`. -/
def Tables.wellFormed (t : Tables) : Bool :=
  distinctEntries t.p10 && distinctEntries t.p8 && distinctEntries t.ip && distinctEntries t.p4 &&
    decide (∀ i : Fin 8, tabRead t.ip (tabRead t.ipinv i) = i) &&
    decide (∀ i : Fin 8, 4 ≤ (tabRead t.ep i).val)

/-- A list of numbers as an index table, if every entry is a cell of a `w`-bit source (R70's range check). -/
def inRange (w : Nat) : (l : List Nat) → Option (List (Fin w))
  | [] => some []
  | x :: xs =>
    if h : x < w then
      match inRange w xs with
      | some ys => some (⟨x, h⟩ :: ys)
      | none => none
    else none

/-- The check of R70 on one index table: the length, then the range. -/
def toIndexTable (n w : Nat) (l : List Nat) : Option (IndexTable n w) :=
  match inRange w l with
  | some ys => if h : ys.length = n then some ⟨ys.toArray, by simpa using h⟩ else none
  | none => none

/-- One row of an S-box: four entries, each in `[0,4)` (R76). -/
def toSBoxRow (l : List Nat) : Option (Vector (BitVec 2) 4) :=
  match toIndexTable 4 4 l with
  | some row => some (row.map fun x => BitVec.ofNat 2 x.val)
  | none => none

/-- The check of R76 on one S-box: four rows of four entries. -/
def toSBoxTable : List (List Nat) → Option SBoxTable
  | [a, b, c, d] =>
    match toSBoxRow a, toSBoxRow b, toSBoxRow c, toSBoxRow d with
    | some r0, some r1, some r2, some r3 => some #v[r0, r1, r2, r3]
    | _, _, _, _ => none
  | _ => none

/-- R70 and R76 on a whole raw record. -/
def RawTables.shape (r : RawTables) : Option Tables :=
  match toIndexTable 10 10 r.p10, toIndexTable 8 10 r.p8, toIndexTable 8 8 r.ip, toIndexTable 8 8 r.ipinv,
    toIndexTable 8 8 r.ep, toIndexTable 4 4 r.p4, toSBoxTable r.s0, toSBoxTable r.s1 with
  | some p10, some p8, some ip, some ipinv, some ep, some p4, some s0, some s1 =>
    some { p10, p8, ip, ipinv, ep, p4, s0, s1 }
  | _, _, _, _, _, _, _, _ => none

/-- The configuration check (R77, R169): a record that fails any of R70 to R76 is refused before any state exists;
no status code reports it. -/
def RawTables.configure (r : RawTables) : Option Tables :=
  match r.shape with
  | some t => if t.wellFormed then some t else none
  | none => none

/-- `TABLES_STD` as R84 lists it. PRESUMED (log entry 1): "from general knowledge, not in source". -/
def rawStd : RawTables where
  p10   := [2, 4, 1, 6, 3, 9, 0, 8, 7, 5]
  p8    := [5, 2, 6, 3, 7, 4, 9, 8]
  ip    := [1, 5, 2, 0, 3, 7, 4, 6]
  ipinv := [3, 0, 2, 4, 6, 1, 7, 5]
  ep    := [7, 4, 5, 6, 5, 6, 7, 4]
  p4    := [1, 3, 2, 0]
  s0    := [[1, 0, 3, 2], [3, 2, 1, 0], [0, 2, 1, 3], [3, 1, 3, 2]]
  s1    := [[0, 1, 2, 3], [2, 0, 1, 3], [3, 0, 1, 0], [2, 1, 0, 3]]

/-- `TABLES_STD` (R84), the record the reset state of this model holds. PRESUMED (log entry 1). -/
def tablesStd : Tables where
  p10   := #v[2, 4, 1, 6, 3, 9, 0, 8, 7, 5]
  p8    := #v[5, 2, 6, 3, 7, 4, 9, 8]
  ip    := #v[1, 5, 2, 0, 3, 7, 4, 6]
  ipinv := #v[3, 0, 2, 4, 6, 1, 7, 5]
  ep    := #v[7, 4, 5, 6, 5, 6, 7, 4]
  p4    := #v[1, 3, 2, 0]
  s0    := #v[#v[1, 0, 3, 2], #v[3, 2, 1, 0], #v[0, 2, 1, 3], #v[3, 1, 3, 2]]
  s1    := #v[#v[0, 1, 2, 3], #v[2, 0, 1, 3], #v[3, 0, 1, 0], #v[2, 1, 0, 3]]

end Sys2Proof
end

