-- ==== Sys2Proof/Syntax.lean ====
section
/-! DEFINITION. The interface events (R46), the operations (R52) and the instructions: one constructor of `Instr`
for each row of spec/opcode_table.json. -/

namespace Sys2Proof

/-- The four operations of the boundary (R45). -/
inductive Operation where
  | encb | decb | enccbc | deccbc
  deriving DecidableEq, Repr

/-- Events from the host to FCE (R46). -/
inductive HostEvent where
  | hdr (h : HeaderWord)
  | dat (b : Block)
  | endReq
  | reset
  deriving DecidableEq, Repr

/-- The status codes of R161, the payload of `DONE`. -/
inductive Status where
  | ok | cvKeyWidth | cvBlockWidth | cvBufferLength
  deriving DecidableEq, Repr

/-- Events from FCE to the host (R46). -/
inductive OutEvent where
  | out (b : Block)
  | done (st : Status)
  deriving DecidableEq, Repr

/-- The table operand of a `PERM` (R78): a table of `TABLES` by name, or an index table given entry by entry. -/
inductive TableRef where
  | named (t : TableName)
  | inline (entries : List Nat)
  deriving DecidableEq, Repr

/-- The shift amounts of `ROL5`: "`k` 1 or 2 (the only amounts `KS` uses)" (R85). -/
inductive RotAmount where
  | one | two
  deriving DecidableEq, Repr

/-- The instructions: the rows of spec/opcode_table.json. A header carries its whole 16-bit key container, since a
word with a too wide key "still decodes to this operation" and is answered `DONE(CV_KEY_WIDTH)` (R54, R162). The rows
from `perm` on are the internal operations, which no word selects (R55). -/
inductive Instr where
  | encb (key16 : KeyContainer) (block : Block)
  | decb (key16 : KeyContainer) (block : Block)
  | enccbc (key16 : KeyContainer) (iv : Block)
  | deccbc (key16 : KeyContainer) (iv : Block)
  | dat (b : Block)
  | endReq
  | reset
  | perm (t : TableRef) (w : Nat) (v : BitVec w)
  | rol5 (h : KeyHalf) (k : RotAmount)
  | ks (key : Key)
  | sbox (box : SBoxName) (n : BitVec 4)
  | f (s : Block) (k : Subkey)
  | fk (s : Block) (k : Subkey)
  | sw (s : Block)
  | crypt (b : Block) (ka kb : Subkey)
  | enc (b : Block)
  | dec (b : Block)
  | cbceBlock (p : Block)
  | cbcdBlock (c : Block)
  deriving DecidableEq, Repr

end Sys2Proof
end

