-- ==== Sys2Proof/Machine/State.lean ====
section
/-! DEFINITION. The state of one FCE instance (R10), why a step can stop, and the state after reset (R28). -/

namespace Sys2Proof.Machine

/-- `MODE` (R15). -/
inductive Mode where
  | idle | cbc
  deriving DecidableEq, Repr

/-- `PHASE` (R17): where the block cipher is inside one block. -/
inductive Phase where
  | none | r1 | r2
  deriving DecidableEq, Repr

/-- The registers that can hold `NOVAL` (R20). -/
inductive RegName where
  | op | k1 | k2 | s | fb
  deriving DecidableEq, Repr

/-- What an internal operation returns: bits, or the pair of `KS` (the "result" column of the opcode table). -/
inductive OpResult where
  | bits (n : Nat) (v : BitVec n)
  | pair (k1 k2 : Subkey)
  deriving DecidableEq, Repr

/-- Why the machine has no next state. None of them is an error FCE reports: the spec's only exception, the contract
violation, is a normal step (R165, R177). -/
inductive Fault where
  /-- Raised by the four header instructions while `MODE = CBC`: no transition (R141, R168). Safe: the machine stops where
  the spec gives no step. -/
  | hdrWhileOpen
  /-- Raised by `DAT` while `MODE = IDLE`: no transition (R141, R168). Safe. -/
  | datWhileIdle
  /-- Raised by `END` while `MODE = IDLE`: no transition (R141, R168). Safe. -/
  | endWhileIdle
  /-- Raised by every host event but `RESET` while `PHASE != P_NONE`: no transition (R141, R168). Safe. -/
  | eventInsideBlock
  /-- Raised by `DAT` in `MODE = CBC` with an `OP` whose `CHAIN` bit is 0: neither R145 nor R146 applies. Only in states
  that no run reaches (R26). Safe. -/
  | datOpNotChained
  /-- Raised by every instruction that reads a register holding `NOVAL` (R20, R177): a fault of the model, unreachable
  from reset. Safe. -/
  | readNoval (r : RegName)
  /-- Raised by the fine steps of Machine/Fine.lean alone, where `PHASE` disagrees with the micro-step in progress: no
  rule of R150 to R153 applies. Never by `step`. Safe. -/
  | noMicroStep
  deriving DecidableEq, Repr

/-- Why an instruction has no meaning. -/
inductive Refusal where
  /-- Raised by an arm of `exec` whose instruction has no meaning yet; no arm raises it now. Safe. -/
  | notModelled (mnemonic : String)
  /-- Raised by `PERM` whose table has an entry outside `[0, w)`: "contract violation, not recoverable" (R78), refused
  at configuration (R77); that `exec` refuses it is log entry 12. Safe. -/
  | malformedTable
  deriving DecidableEq, Repr

/-- The state tuple of R10 and, below the line, the model's own two fields. An `Option`'s `none` is the spec's `NOVAL`
(R20, log entry 2). -/
structure State where
  /-- `MODE` (R15). -/
  mode   : Mode
  /-- `PHASE` (R17). -/
  phase  : Phase
  /-- `OP` (R16). -/
  op     : Option OpCode
  /-- `K1` (R11). -/
  k1     : Option Subkey
  /-- `K2` (R11). -/
  k2     : Option Subkey
  /-- `S`, the round state (R12). -/
  roundS : Option Block
  /-- `FB`, the chaining state (R13). -/
  fb     : Option Block
  /-- `IDX`, the ghost block counter (R19). -/
  idx    : Nat
  /-- `OUTLOG`, oldest event first (R22). -/
  outlog : List OutEvent
  /-- `TABLES`, never written (R21). -/
  tables : Tables
  /-- The model's own: the host events issued and not yet consumed, next event first (R40, R156; log entry 3). -/
  input  : List HostEvent
  /-- The model's own: what the last internal operation executed by itself returned (log entry 5). -/
  result : Option OpResult
  deriving DecidableEq, Repr

/-- The state at power-up (R28, R180): every register `NOVAL`, nothing emitted. `TABLES` is PRESUMED `TABLES_STD`
(R84, log entry 1). -/
def State.reset : State where
  mode   := .idle
  phase  := .none
  op     := none
  k1     := none
  k2     := none
  roundS := none
  fb     := none
  idx    := 0
  outlog := []
  tables := tablesStd
  input  := []
  result := none

/-- Power-up of an instance built with other tables: the same state with those tables (R6, R28). -/
def State.powerUp (t : Tables) : State := { State.reset with tables := t }

/-- Building a machine: a malformed table record gives none (R77, R169, R182). -/
def State.build (r : RawTables) : Option State :=
  match r.configure with
  | some t => some (State.powerUp t)
  | none => none

end Sys2Proof.Machine
end

