-- ==== Sys2Proof/Machine/Flags.lean ====
section
/-! DEFINITION. FCE has no flags and no condition codes (R24). The only status value is the 2-bit payload of `DONE`
(R161), which is emitted and held in no register. -/

namespace Sys2Proof.Machine

/-- The number of a status code (R161). -/
def statusCode : Status → BitVec 2
  | .ok => 0#2
  | .cvKeyWidth => 1#2
  | .cvBlockWidth => 2#2
  | .cvBufferLength => 3#2

/-- The status a 2-bit payload names: all four are defined (R161). -/
def statusOf (c : BitVec 2) : Status :=
  match c.getLsbD 1, c.getLsbD 0 with
  | false, false => .ok
  | false, true => .cvKeyWidth
  | true, false => .cvBlockWidth
  | true, true => .cvBufferLength

end Sys2Proof.Machine
end

