-- ==== Sys2Proof/WellFormed.lean ====
section
/-! DEFINITION. Which instructions are well-formed. The events of the port have no ill-formed payload (R56): a header
with a too wide key is a request that is answered, not an ill-formed word. A `PERM` needs "entries in `[0, w)`" (R78). -/

namespace Sys2Proof

/-- The source width of a named table (R31). -/
def TableName.sourceWidth : TableName → Nat
  | .p10 => 10
  | .p8 => 10
  | .ip => 8
  | .ipinv => 8
  | .ep => 8
  | .p4 => 4

/-- Every entry of the table operand is a cell of a `w`-bit source (R78): a named table has entries below its own
source width, an inline table is looked at entry by entry. -/
def TableRef.fits (w : Nat) : TableRef → Bool
  | .named t => t.sourceWidth ≤ w
  | .inline l => l.all (· < w)

/-- The well-formed instructions. -/
def Instr.wellFormed : Instr → Bool
  | .encb _ _ => true
  | .decb _ _ => true
  | .enccbc _ _ => true
  | .deccbc _ _ => true
  | .dat _ => true
  | .endReq => true
  | .reset => true
  | .perm t w _ => t.fits w
  | .rol5 _ _ => true
  | .ks _ => true
  | .sbox _ _ => true
  | .f _ _ => true
  | .fk _ _ => true
  | .sw _ => true
  | .crypt _ _ _ => true
  | .enc _ => true
  | .dec _ => true
  | .cbceBlock _ => true
  | .cbcdBlock _ => true

end Sys2Proof
end

