-- ==== Sys2Proof/Decode.lean ====
section
/-! DEFINITION. Decoding and encoding of the port (R49 to R56). Integer numbering here: bit 0 is the least
significant bit (R7). -/

namespace Sys2Proof

/-- `OP = h[25:24]` (R51). -/
def headerOp (h : HeaderWord) : OpCode := h.extractLsb' 24 2

/-- `ARG = h[23:16]` (R51). -/
def headerArg (h : HeaderWord) : Block := h.extractLsb' 16 8

/-- `KEY16 = h[15:0]` (R51). -/
def headerKey16 (h : HeaderWord) : KeyContainer := h.extractLsb' 0 16

/-- `KEY16[15:10]`, the bits that must be zero (R50). -/
def keyHigh (k : KeyContainer) : BitVec 6 := k.extractLsb' 10 6

/-- `KEY16[9:0]`, the Key (R50). -/
def keyLow (k : KeyContainer) : Key := k.extractLsb' 0 10

/-- The key container holds a key wider than 10 bits (R50, R162). -/
def keyTooWide (k : KeyContainer) : Bool := keyHigh k != 0#6

/-- `DIR = OP[0:0]`: true for decryption (R16, R52). -/
def opDecrypts (op : OpCode) : Bool := op.getLsbD 0

/-- `CHAIN = OP[1:1]`: true for CBC (R16, R52). -/
def opChains (op : OpCode) : Bool := op.getLsbD 1

/-- The operation of an `OP` value: all four are defined (R52). -/
def Operation.ofCode (op : OpCode) : Operation :=
  match opChains op, opDecrypts op with
  | false, false => .encb
  | false, true => .decb
  | true, false => .enccbc
  | true, true => .deccbc

/-- The `OP` value of an operation (R52). -/
def Operation.code : Operation → OpCode
  | .encb => 0#2
  | .decb => 1#2
  | .enccbc => 2#2
  | .deccbc => 3#2

/-- The header instruction of an operation. -/
def Operation.toInstr (o : Operation) (key16 : KeyContainer) (arg : Block) : Instr :=
  match o with
  | .encb => .encb key16 arg
  | .decb => .decb key16 arg
  | .enccbc => .enccbc key16 arg
  | .deccbc => .deccbc key16 arg

/-- Decode of a header word, total on all `2^26` words (R54). A word with `KEY16[15:10] != 0` is still its operation
(the table's `KEY16_HI` note); the header step answers it with `DONE(CV_KEY_WIDTH)`. -/
def decodeHeader (h : HeaderWord) : Instr :=
  (Operation.ofCode (headerOp h)).toInstr (headerKey16 h) (headerArg h)

/-- R54's `decode` as the spec writes it: the violation, or the operation with its 10-bit key and its operand. -/
def classifyHeader (h : HeaderWord) : Except Status (Operation × Key × Block) :=
  if keyTooWide (headerKey16 h) then .error .cvKeyWidth
  else .ok (Operation.ofCode (headerOp h), keyLow (headerKey16 h), headerArg h)

/-- The instruction of a host event: which event it is, is carried by `TRANSPORT` and by no bit of a word (R55). -/
def decodeEvent : HostEvent → Instr
  | .hdr h => decodeHeader h
  | .dat b => .dat b
  | .endReq => .endReq
  | .reset => .reset

/-- Why a word is no event of the port. -/
inductive DecodeError where
  /-- no word of the port has this many bits -/
  | noSuchWidth (nbits : Nat)
  /-- a bit above the word's own width is set -/
  | bitAboveWord (nbits w : Nat)
  deriving DecidableEq, Repr

/-- The event whose word is `w`, given in `nbits` bits: 26 bits, or 32 with six zero bits above, for a header; 8 for
a data word (R49). DESIGN CHOICE (log entry 4): `TRANSPORT` is open, so how a word lies in whole bytes is the model's
convention; `END` and `RESET` have no word and are never decoded from one (R55). -/
def decodeWord (nbits w : Nat) : Except DecodeError HostEvent :=
  if nbits = 26 ∨ nbits = 32 then
    if w < 2 ^ 26 then .ok (.hdr (BitVec.ofNat 26 w)) else .error (.bitAboveWord nbits w)
  else if nbits = 8 then
    if w < 2 ^ 8 then .ok (.dat (BitVec.ofNat 8 w)) else .error (.bitAboveWord nbits w)
  else .error (.noSuchWidth nbits)

/-- The instruction the decoder reads from a word numbered as the opcode table numbers it. -/
def decodeTableWord (nbits w : Nat) : Option Instr :=
  match decodeWord nbits w with
  | .ok e => some (decodeEvent e)
  | .error _ => none

/-- The header word of R51: `OP << 24 | ARG << 16 | KEY16`. -/
def encodeHeader (op : OpCode) (arg : Block) (key16 : KeyContainer) : HeaderWord :=
  op ++ arg ++ key16

/-- The host event of an instruction; none for the internal operations, which "have no encoding" (R55). -/
def encode : Instr → Option HostEvent
  | .encb key16 block => some (.hdr (encodeHeader 0#2 block key16))
  | .decb key16 block => some (.hdr (encodeHeader 1#2 block key16))
  | .enccbc key16 iv => some (.hdr (encodeHeader 2#2 iv key16))
  | .deccbc key16 iv => some (.hdr (encodeHeader 3#2 iv key16))
  | .dat b => some (.dat b)
  | .endReq => some .endReq
  | .reset => some .reset
  | .perm _ _ _ => none
  | .rol5 _ _ => none
  | .ks _ => none
  | .sbox _ _ => none
  | .f _ _ => none
  | .fk _ _ => none
  | .sw _ => none
  | .crypt _ _ _ => none
  | .enc _ => none
  | .dec _ => none
  | .cbceBlock _ => none
  | .cbcdBlock _ => none

end Sys2Proof
end

