-- ==== Sys2Proof/Machine/Bits.lean ====
section
/-! DEFINITION. Cell numbering (R7): cell 0 is the most significant bit, and a run of cells reads with its
lowest-numbered cell high (D2). -/

namespace Sys2Proof.Machine

/-- `v<i>`: cell `i` of `v`, cell 0 the most significant bit (R7). -/
def cell {w : Nat} (v : BitVec w) (i : Nat) : Bool := v.getMsbD i

/-- The `n`-bit value whose cell `i` is `f i`. -/
def ofCells : {n : Nat} → (Fin n → Bool) → BitVec n
  | 0, _ => 0#0
  | _ + 1, f => (ofCells fun i => f i.castSucc).concat (f (Fin.last _))

/-- `v<a..a+n-1>`: `n` cells of `v` from cell `a` on (R7). -/
def cells {w : Nat} (v : BitVec w) (a n : Nat) : BitVec n := ofCells fun i => cell v (a + i)

/-- `rol_w(v, k)`: result cell `i` is `v<(i+k) mod w>` (R8). -/
def rol {w : Nat} (v : BitVec w) (k : Nat) : BitVec w := ofCells fun i => cell v ((i + k) % w)

/-- Two cells read as an index, the first the high one: `2*hi + lo` (R8, R97). -/
def pairIndex (hi lo : Bool) : Fin 4 := ⟨2 * hi.toNat + lo.toNat, by cases hi <;> cases lo <;> decide⟩

/-- The left half `L = s<0..3>` of a round state (R95). -/
def leftHalf (s : Block) : Half := cells s 0 4

/-- The right half `R = s<4..7>` of a round state (R95). -/
def rightHalf (s : Block) : Half := cells s 4 4

end Sys2Proof.Machine
end

