-- ==== Sys2Proof/Machine/Cipher.lean ====
section
/-! DEFINITION. The datapath operations of files 40 to 43, as functions of their operands and `TABLES` alone (R14,
R103): PERM, ROL5, KS, SBOX, F, FK, SW, CRYPT, ENC, DEC. -/

namespace Sys2Proof.Machine

/-- `PERM(T, w, v)`: result cell `i` is `v<T[i]>` (R78). -/
def perm {n w : Nat} (t : IndexTable n w) (v : BitVec w) : BitVec n := ofCells fun i => cell v (tabRead t i)

/-- The amount of a `ROL5`. -/
def rotBy : RotAmount → Nat
  | .one => 1
  | .two => 2

/-- `ROL5(h, k) = rol_5(h, k)` (R85). -/
def rol5 (h : KeyHalf) (k : RotAmount) : KeyHalf := rol h (rotBy k)

/-- The left half of the permuted key, `PK<0..4>` (R86). -/
def keyLeft (pk : Key) : KeyHalf := cells pk 0 5

/-- The right half of the permuted key, `PK<5..9>` (R86). -/
def keyRight (pk : Key) : KeyHalf := cells pk 5 5

/-- `KS(key)` (R87). The step-4 shift starts from the halves already shifted for `K1` (R189). -/
def ks (t : Tables) (key : Key) : Subkey × Subkey :=
  let pk := perm t.p10 key
  let kl1 := rol5 (keyLeft pk) .one
  let kr1 := rol5 (keyRight pk) .one
  let k1 := perm t.p8 (kl1 ++ kr1)
  let kl3 := rol5 kl1 .two
  let kr3 := rol5 kr1 .two
  let k2 := perm t.p8 (kl3 ++ kr3)
  (k1, k2)

/-- `SBOX(S, n)`: row from the top two cells, column from the bottom two (R97, C3). -/
def sbox (box : SBoxTable) (n : BitVec 4) : BitVec 2 :=
  sboxRead box (pairIndex (cell n 0) (cell n 1)) (pairIndex (cell n 2) (cell n 3))

/-- `F(s, k)` (R99). `S0`'s output comes first (D4). -/
def roundF (t : Tables) (s : Block) (k : Subkey) : Half :=
  let e := perm t.ep s
  let x := e ^^^ k
  let u : BitVec 4 := sbox t.s0 (leftHalf x) ++ sbox t.s1 (rightHalf x)
  perm t.p4 u

/-- `FK(s, k)`: one round, no swap (R100, C8). -/
def roundFK (t : Tables) (s : Block) (k : Subkey) : Block :=
  (leftHalf s ^^^ roundF t s k) ++ rightHalf s

/-- `SW(s)`: swap of the halves (R101). -/
def swapHalves (s : Block) : Block := rightHalf s ++ leftHalf s

/-- Step 2 of `CRYPT`: the initial permutation (R111, R150). -/
def cryptLoad (t : Tables) (b : Block) : Block := perm t.ip b

/-- Step 3 of `CRYPT`: round 1, then the one swap (R111, R151, R192). -/
def cryptRound1 (t : Tables) (s : Block) (ka : Subkey) : Block := swapHalves (roundFK t s ka)

/-- Step 4 of `CRYPT`: round 2, no swap (R111, R152). -/
def cryptRound2 (t : Tables) (s : Block) (kb : Subkey) : Block := roundFK t s kb

/-- Step 5 of `CRYPT`: the inverse initial permutation (R111, R153). -/
def cryptUnload (t : Tables) (s : Block) : Block := perm t.ipinv s

/-- `CRYPT(b, ka, kb)`: the structure common to both directions (R111). -/
def crypt (t : Tables) (b : Block) (ka kb : Subkey) : Block :=
  cryptUnload t (cryptRound2 t (cryptRound1 t (cryptLoad t b) ka) kb)

/-- `ENC(b, K1, K2) = CRYPT(b, K1, K2)` (R112). -/
def enc (t : Tables) (b : Block) (k1 k2 : Subkey) : Block := crypt t b k1 k2

/-- `DEC(b, K1, K2) = CRYPT(b, K2, K1)` (R113). -/
def dec (t : Tables) (b : Block) (k1 k2 : Subkey) : Block := crypt t b k2 k1

/-- `Encrypt(b, key) = ENC(b, K1, K2)` with `(K1, K2) = KS(key)` (R112). -/
def encrypt (t : Tables) (b : Block) (key : Key) : Block := enc t b (ks t key).1 (ks t key).2

/-- `Decrypt(b, key) = DEC(b, K1, K2)` with `(K1, K2) = KS(key)` (R113). -/
def decrypt (t : Tables) (b : Block) (key : Key) : Block := dec t b (ks t key).1 (ks t key).2

end Sys2Proof.Machine
end

