-- ==== Sys2Proof/Machine/Operands.lean ====
section
/-! DEFINITION. Reading operands: registers that may hold `NOVAL` (R20), the table operand of a `PERM` (R78), and the
block handed to the cipher. -/

namespace Sys2Proof.Machine

/-- A read of a register: `NOVAL` is a fault of the model (R20). -/
def readReg {α σ : Type} (name : RegName) (r : Option α) (use : α → Host.Outcome σ Fault Refusal) :
    Host.Outcome σ Fault Refusal :=
  match r with
  | some v => use v
  | none => .fault (.readNoval name)

/-- A read of the subkey pair (R11), `K1` first (log entry 2). -/
def readSubkeys {σ : Type} (s : State) (use : Subkey → Subkey → Host.Outcome σ Fault Refusal) :
    Host.Outcome σ Fault Refusal :=
  readReg .k1 s.k1 fun k1 => readReg .k2 s.k2 fun k2 => use k1 k2

/-- The entries of a table operand (R78). -/
def tableEntries (t : Tables) : TableRef → List Nat
  | .named name => t.entries name
  | .inline l => l

/-- `PERM` over a list of entries, none of them outside `[0, w)`; none if one is (R78). -/
def permList {w : Nat} (l : List Nat) (v : BitVec w) : Option (BitVec l.length) :=
  match toIndexTable l.length w l with
  | some t => some (perm t v)
  | none => none

/-- The subkey of round 1: `K1` to encrypt, `K2` to decrypt (R112, R113). -/
def firstSubkey (op : OpCode) (k1 k2 : Subkey) : Subkey := if opDecrypts op then k2 else k1

/-- The subkey of round 2: `K2` to encrypt, `K1` to decrypt (R112, R113). -/
def secondSubkey (op : OpCode) (k1 k2 : Subkey) : Subkey := if opDecrypts op then k1 else k2

end Sys2Proof.Machine
end

