-- ==== Sys2Proof/Machine/Ops.lean ====
section
/-! DEFINITION. The named operations over the state that the meanings share: emitting events, the contract violation,
opening and closing a request, the two CBC block operations. There is no memory to operate on (R30), and no return from
an exception: "There is nothing to return from" (R172). -/

namespace Sys2Proof.Machine

/-- `Emit`: append one event to `OUTLOG` (R48). -/
def emit (e : OutEvent) (s : State) : State := { s with outlog := s.outlog ++ [e] }

/-- `raise ContractViolation(code)` inside a header step (R165): `DONE(code)` is emitted, no register is written, and
`MODE` becomes (it already was) `IDLE`. -/
def raiseViolation (code : Status) (s : State) : State := { emit (.done code) s with mode := .idle }

/-- The header check and the acceptance of a header (R141, R143, R162): only in `MODE = IDLE`, `PHASE = P_NONE`; a key
wider than 10 bits is answered by the violation step, before `KS` and before any register is written. -/
def acceptHeader {σ : Type} (key16 : KeyContainer) (s : State) (violated : State → σ)
    (accepted : Key → Host.Outcome σ Fault Refusal) : Host.Outcome σ Fault Refusal :=
  if s.phase ≠ .none then .fault .eventInsideBlock
  else if s.mode = .cbc then .fault .hdrWhileOpen
  else if keyTooWide key16 then .next (violated (raiseViolation .cvKeyWidth s))
  else accepted (keyLow key16)

/-- The acceptance of `DAT` and `END`: only in `MODE = CBC`, `PHASE = P_NONE` (R141). -/
def acceptInRequest {σ : Type} (whyNot : Fault) (s : State) (accepted : Host.Outcome σ Fault Refusal) :
    Host.Outcome σ Fault Refusal :=
  if s.phase ≠ .none then .fault .eventInsideBlock
  else if s.mode = .idle then .fault whyNot
  else accepted

/-- The first register writes of every accepted header: `OP <- h.OP` and `(K1, K2) <- KS(key)` (R142, R144). -/
def latchHeader (op : OpCode) (key : Key) (s : State) : State :=
  { s with op := some op, k1 := some (ks s.tables key).1, k2 := some (ks s.tables key).2 }

/-- The rest of a CBC header (R144): `FB <- iv`, `IDX <- 0`, `MODE <- CBC`. -/
def openChain (iv : Block) (s : State) : State := { s with fb := some iv, idx := 0, mode := .cbc }

/-- What `CRYPT` leaves of its own register and phase: `S <- NOVAL`, `PHASE = P_NONE` (R111). -/
def leaveCipher (s : State) : State := { s with roundS := none, phase := .none }

/-- The end of a single-block request (R142): `OUT(y)`, `DONE(0)`, then `OP`, `K1`, `K2`, `S` back to `NOVAL`; `FB`,
`IDX`, `MODE` untouched. -/
def answerSingle (y : Block) (s : State) : State :=
  { emit (.done .ok) (emit (.out y) s) with op := none, k1 := none, k2 := none, roundS := none }

/-- The end of a CBC request (R147): `DONE(0)`, then the idle state of R26. -/
def closeChain (s : State) : State :=
  { emit (.done .ok) s with
    mode := .idle, op := none, k1 := none, k2 := none, fb := none, roundS := none, idx := 0 }

/-- The register writes at the end of a CBC block: `FB` takes the block's ciphertext, `IDX` counts it (R127, R129). -/
def chainOn (c : Block) (s : State) : State := { s with fb := some c, idx := s.idx + 1 }

/-- `ENC` over the registers `K1`, `K2` (R112). -/
def encOp {σ : Type} (b : Block) (s : State) (use : Block → State → Host.Outcome σ Fault Refusal) :
    Host.Outcome σ Fault Refusal :=
  readSubkeys s fun k1 k2 => use (enc s.tables b k1 k2) (leaveCipher s)

/-- `DEC` over the registers `K1`, `K2` (R113). -/
def decOp {σ : Type} (b : Block) (s : State) (use : Block → State → Host.Outcome σ Fault Refusal) :
    Host.Outcome σ Fault Refusal :=
  readSubkeys s fun k1 k2 => use (dec s.tables b k1 k2) (leaveCipher s)

/-- `CBCE_BLOCK(p)` (R127): `FB` is read before the cipher call and written, with the output, strictly after (R133). -/
def cbceBlockOp {σ : Type} (p : Block) (s : State) (use : Block → State → Host.Outcome σ Fault Refusal) :
    Host.Outcome σ Fault Refusal :=
  readReg .fb s.fb fun fb => encOp (p ^^^ fb) s fun c s' => use c (chainOn c s')

/-- `CBCD_BLOCK(c)` (R129): the XOR is after the whole cipher, and `FB` takes the input block. -/
def cbcdBlockOp {σ : Type} (c : Block) (s : State) (use : Block → State → Host.Outcome σ Fault Refusal) :
    Host.Outcome σ Fault Refusal :=
  decOp c s fun d s' => readReg .fb s'.fb fun fb => use (d ^^^ fb) (chainOn c s')

/-- The state after `RESET` (R180): the reset state's registers, with `OUTLOG` and `TABLES` as they were. The model's
`input` is the host's and stays (log entry 3). -/
def resetState (s : State) : State :=
  { State.reset with outlog := s.outlog, tables := s.tables, input := s.input }

/-- The returned value of an internal operation executed by itself (the opcode table's "result"; log entry 5). -/
def returnValue (r : OpResult) (s : State) : State := { s with result := some r }

end Sys2Proof.Machine
end

