-- ==== Sys2Proof/Machine/Chaining.lean ====
section
/-! DEFINITION. The CBC commands: opening a request (R144), its data blocks (R145, R146), closing it (R147). -/

namespace Sys2Proof.Machine

/-- `ENCCBC key, iv` opens a CBC request with `OP = 2` (R144). -/
def execEnccbc (key16 : KeyContainer) (iv : Block) (s : State) : Host.Outcome State Fault Refusal :=
  acceptHeader key16 s id fun key => .next (openChain iv (latchHeader 2#2 key s))

/-- `DECCBC key, iv` opens a CBC request with `OP = 3` (R144). -/
def execDeccbc (key16 : KeyContainer) (iv : Block) (s : State) : Host.Outcome State Fault Refusal :=
  acceptHeader key16 s id fun key => .next (openChain iv (latchHeader 3#2 key s))

/-- `DAT b`: `CBCE_BLOCK` when the latched `OP` is 2 (R145), `CBCD_BLOCK` when it is 3 (R146), and the block's `OUT`. -/
def execDat (b : Block) (s : State) : Host.Outcome State Fault Refusal :=
  acceptInRequest .datWhileIdle s <|
    readReg .op s.op fun op =>
      if opChains op then
        if opDecrypts op then cbcdBlockOp b s fun p s' => .next (emit (.out p) s')
        else cbceBlockOp b s fun c s' => .next (emit (.out c) s')
      else .fault .datOpNotChained

/-- `END` closes the open CBC request (R147). -/
def execEndReq (s : State) : Host.Outcome State Fault Refusal :=
  acceptInRequest .endWhileIdle s (.next (closeChain s))

end Sys2Proof.Machine
end

