-- ==== Sys2Proof/Machine/Control.lean ====
section
/-! DEFINITION. `RESET` (R148, R180, R181). -/

namespace Sys2Proof.Machine

/-- `RESET` is accepted in every state; no event is emitted and an open request is abandoned without a `DONE`
(R180, R181). -/
def execReset (s : State) : Host.Outcome State Fault Refusal := .next (resetState s)

end Sys2Proof.Machine
end

