-- ==== Sys2Proof/Machine/Internal.lean ====
section
/-! DEFINITION. The internal operations of the opcode table, each executed by itself: its effect on the registers the
spec gives it, and its returned value in `result` (log entries 5 and 6). No event selects them (R55); inside the commands
they are the functions these definitions call. -/

namespace Sys2Proof.Machine

/-- `PERM(T, w, v)` (R78): reads `TABLES`, writes nothing; refused where an entry is out of `[0, w)` (log entry 12). -/
def execPerm (t : TableRef) (w : Nat) (v : BitVec w) (s : State) : Host.Outcome State Fault Refusal :=
  match permList (tableEntries s.tables t) v with
  | some y => .next (returnValue (.bits _ y) s)
  | none => .refused .malformedTable

/-- `ROL5(h, k)` (R85). -/
def execRol5 (h : KeyHalf) (k : RotAmount) (s : State) : Host.Outcome State Fault Refusal :=
  .next (returnValue (.bits 5 (rol5 h k)) s)

/-- `KS(key)` (R87): writes `K1` and `K2` together (R11, R88). -/
def execKs (key : Key) (s : State) : Host.Outcome State Fault Refusal :=
  .next (returnValue (.pair (ks s.tables key).1 (ks s.tables key).2)
    { s with k1 := some (ks s.tables key).1, k2 := some (ks s.tables key).2 })

/-- `SBOX(S, n)` (R97). -/
def execSbox (box : SBoxName) (n : BitVec 4) (s : State) : Host.Outcome State Fault Refusal :=
  .next (returnValue (.bits 2 (sbox (s.tables.sbox box) n)) s)

/-- `F(s, k)` (R99). -/
def execF (x : Block) (k : Subkey) (s : State) : Host.Outcome State Fault Refusal :=
  .next (returnValue (.bits 4 (roundF s.tables x k)) s)

/-- `FK(s, k)` (R100). -/
def execFk (x : Block) (k : Subkey) (s : State) : Host.Outcome State Fault Refusal :=
  .next (returnValue (.bits 8 (roundFK s.tables x k)) s)

/-- `SW(s)` (R101). -/
def execSw (x : Block) (s : State) : Host.Outcome State Fault Refusal :=
  .next (returnValue (.bits 8 (swapHalves x)) s)

/-- `CRYPT(b, ka, kb)` (R111): `S` and `PHASE` are used and left at `NOVAL` and `P_NONE`; no other register. -/
def execCrypt (b : Block) (ka kb : Subkey) (s : State) : Host.Outcome State Fault Refusal :=
  .next (returnValue (.bits 8 (crypt s.tables b ka kb)) (leaveCipher s))

/-- `ENC(b, K1, K2)` over the registers `K1`, `K2` (R112). -/
def execEnc (b : Block) (s : State) : Host.Outcome State Fault Refusal :=
  encOp b s fun y s' => .next (returnValue (.bits 8 y) s')

/-- `DEC(b, K1, K2)` over the registers `K1`, `K2` (R113). -/
def execDec (b : Block) (s : State) : Host.Outcome State Fault Refusal :=
  decOp b s fun y s' => .next (returnValue (.bits 8 y) s')

/-- `CBCE_BLOCK(p)` (R127): reads `FB`, `K1`, `K2`; writes `FB`, `IDX`; emits nothing. -/
def execCbceBlock (p : Block) (s : State) : Host.Outcome State Fault Refusal :=
  cbceBlockOp p s fun c s' => .next (returnValue (.bits 8 c) s')

/-- `CBCD_BLOCK(c)` (R129): reads `FB`, `K1`, `K2`; writes `FB`, `IDX`; emits nothing. -/
def execCbcdBlock (c : Block) (s : State) : Host.Outcome State Fault Refusal :=
  cbcdBlockOp c s fun p s' => .next (returnValue (.bits 8 p) s')

end Sys2Proof.Machine
end

