-- ==== Sys2Proof/Machine/SingleBlock.lean ====
section
/-! DEFINITION. The single-block commands `ENCB` and `DECB` (R142). -/

namespace Sys2Proof.Machine

/-- `ENCB key, block` (R142 with R112): the header check, `OP <- 0`, `KS`, `y = ENC(block, K1, K2)`, `OUT(y)`,
`DONE(0)`, clear. -/
def execEncb (key16 : KeyContainer) (block : Block) (s : State) : Host.Outcome State Fault Refusal :=
  acceptHeader key16 s id fun key =>
    encOp block (latchHeader 0#2 key s) fun y s' => .next (answerSingle y s')

/-- `DECB key, block` (R142 with R113): the same with `OP <- 1` and `y = DEC(block, K1, K2)`. -/
def execDecb (key16 : KeyContainer) (block : Block) (s : State) : Host.Outcome State Fault Refusal :=
  acceptHeader key16 s id fun key =>
    decOp block (latchHeader 1#2 key s) fun y s' => .next (answerSingle y s')

end Sys2Proof.Machine
end

