-- ==== Sys2Proof/Machine/Dispatch.lean ====
section
/-! DEFINITION. One arm for each instruction, each one call of its meaning. -/

namespace Sys2Proof.Machine

def exec (i : Instr) (s : State) : Host.Outcome State Fault Refusal :=
  match i with
  | .encb key16 block => Sys2Proof.Machine.execEncb key16 block s
  | .decb key16 block => Sys2Proof.Machine.execDecb key16 block s
  | .enccbc key16 iv => Sys2Proof.Machine.execEnccbc key16 iv s
  | .deccbc key16 iv => Sys2Proof.Machine.execDeccbc key16 iv s
  | .dat b => Sys2Proof.Machine.execDat b s
  | .endReq => Sys2Proof.Machine.execEndReq s
  | .reset => Sys2Proof.Machine.execReset s
  | .perm t w v => Sys2Proof.Machine.execPerm t w v s
  | .rol5 h k => Sys2Proof.Machine.execRol5 h k s
  | .ks key => Sys2Proof.Machine.execKs key s
  | .sbox box n => Sys2Proof.Machine.execSbox box n s
  | .f x k => Sys2Proof.Machine.execF x k s
  | .fk x k => Sys2Proof.Machine.execFk x k s
  | .sw x => Sys2Proof.Machine.execSw x s
  | .crypt b ka kb => Sys2Proof.Machine.execCrypt b ka kb s
  | .enc b => Sys2Proof.Machine.execEnc b s
  | .dec b => Sys2Proof.Machine.execDec b s
  | .cbceBlock p => Sys2Proof.Machine.execCbceBlock p s
  | .cbcdBlock c => Sys2Proof.Machine.execCbcdBlock c s

end Sys2Proof.Machine
end

