-- ==== Sys2Proof/Machine/Step.lean ====
section
/-! DEFINITION. One step: FCE has no program counter (R18); what is fetched is the host's next event, which is consumed
whole before the next one (R40). -/

namespace Sys2Proof.Machine

/-- One coarse step (R142 to R149): the next host event is consumed and its instruction executed. With no event waiting
FCE waits and nothing changes (R156; log entry 3). -/
def step (s : State) : Host.Outcome State Fault Refusal :=
  match s.input with
  | [] => .next s
  | e :: rest => exec (decodeEvent e) { s with input := rest }

/-- `s` with the event of the word `w` placed where `step` takes its next event; `s` itself where the word is no event
of the port. -/
def State.withFetchWord (s : State) (nbits w : Nat) : State :=
  match decodeWord nbits w with
  | .ok e => { s with input := e :: s.input }
  | .error _ => s

end Sys2Proof.Machine
end

