-- ==== Sys2Proof/Machine/Cbc.lean ====
section
/-! DEFINITION. The whole-buffer functions of file 44: `CBCE` and `CBCD`. Input and output are separate sequences, of
the same length (R32, R131). -/

namespace Sys2Proof.Machine

/-- The blocks of `CBCE` from feedback `fb` on: `c = ENC(p XOR fb)`, and `c` is the next feedback (R127). -/
def cbceFrom (t : Tables) (k1 k2 : Subkey) : Block → List Block → List Block
  | _, [] => []
  | fb, p :: ps => enc t (p ^^^ fb) k1 k2 :: cbceFrom t k1 k2 (enc t (p ^^^ fb) k1 k2) ps

/-- The blocks of `CBCD` from feedback `fb` on: `p = DEC(c) XOR fb`, and the input `c` is the next feedback (R129). -/
def cbcdFrom (t : Tables) (k1 k2 : Subkey) : Block → List Block → List Block
  | _, [] => []
  | fb, c :: cs => (dec t c k1 k2 ^^^ fb) :: cbcdFrom t k1 k2 c cs

/-- `CBCE(P, key, iv)`: `encryptCBC` of a whole buffer (R128). -/
def cbce (t : Tables) (ps : List Block) (key : Key) (iv : Block) : List Block :=
  cbceFrom t (ks t key).1 (ks t key).2 iv ps

/-- `CBCD(C, key, iv)`: `decryptCBC` of a whole buffer (R130). -/
def cbcd (t : Tables) (cs : List Block) (key : Key) (iv : Block) : List Block :=
  cbcdFrom t (ks t key).1 (ks t key).2 iv cs

end Sys2Proof.Machine
end

