-- ==== Sys2Proof/Machine/Boundary.lean ====
section
/-! DEFINITION. The abstract boundary: requests as records (R58), the width checks (R166), what a request is answered
(R155), and the events that carry it through the port (R47). -/

namespace Sys2Proof.Machine

/-- The block or IV operand at the abstract boundary: a number (R58), or a bit string, its first bit cell 0 (R163). -/
inductive BlockOperand where
  | number (n : Nat)
  | bits (bs : List Bool)
  deriving DecidableEq, Repr

/-- The operand is an 8-bit value (R163): a number below `2^8`, or a bit string of length 8. -/
def BlockOperand.fits : BlockOperand → Bool
  | .number n => n < 2 ^ 8
  | .bits bs => bs.length == 8

/-- A bit string as an unsigned integer, cell 0 the most significant bit (R7). -/
def natOfBits (bs : List Bool) : Nat := bs.foldl (fun acc b => 2 * acc + b.toNat) 0

/-- The 8-bit value of an operand that fits; one that does not never gets here (R166). -/
def BlockOperand.value : BlockOperand → Block
  | .number n => BitVec.ofNat 8 n
  | .bits bs => BitVec.ofNat 8 (natOfBits bs)

/-- A request that is tied to no format (R58): `data` is a sequence of bits, for the CBC operations only. -/
structure Request where
  op   : Operation
  key  : Nat
  arg  : BlockOperand
  data : List Bool
  deriving DecidableEq, Repr

/-- The operation is a CBC operation: bit 1 of its code (R52). -/
def chained (op : Operation) : Bool := opChains op.code

/-- `check(req)` (R166): key width, then block or IV width in either form of R163, then buffer length, then no buffer on a
single block; the first failure is the one reported (R170). -/
def checkRequest (r : Request) : Status :=
  if 2 ^ 10 ≤ r.key then .cvKeyWidth
  else if ¬ r.arg.fits then .cvBlockWidth
  else if chained r.op ∧ r.data.length % 8 ≠ 0 then .cvBufferLength
  else if ¬ chained r.op ∧ r.data.length ≠ 0 then .cvBlockWidth
  else .ok

/-- The block of eight bits, the first one cell 0 (R58). -/
def blockOfBits (b0 b1 b2 b3 b4 b5 b6 b7 : Bool) : Block :=
  (((((((BitVec.concat (BitVec.ofBool b0) b1).concat b2).concat b3).concat b4).concat b5).concat b6).concat b7)

/-- `data` cut into blocks, the first eight bits block 0 (R58). A rest of fewer than eight bits never gets here: the
check refuses the whole request (R164). -/
def cutBlocks : List Bool → List Block
  | b0 :: b1 :: b2 :: b3 :: b4 :: b5 :: b6 :: b7 :: rest => blockOfBits b0 b1 b2 b3 b4 b5 b6 b7 :: cutBlocks rest
  | _ => []

/-- The bits of one block, cell 0 first. -/
def bitsOfBlock (b : Block) : List Bool :=
  [cell b 0, cell b 1, cell b 2, cell b 3, cell b 4, cell b 5, cell b 6, cell b 7]

/-- The answer to a request that passed the checks (R155). -/
def serve (t : Tables) (op : Operation) (key : Key) (arg : Block) (blocks : List Block) : List OutEvent :=
  match op with
  | .encb => [.out (encrypt t arg key), .done .ok]
  | .decb => [.out (decrypt t arg key), .done .ok]
  | .enccbc => (cbce t blocks key arg).map .out ++ [.done .ok]
  | .deccbc => (cbcd t blocks key arg).map .out ++ [.done .ok]

/-- The whole answer to an abstract request: `DONE(code)` alone if a check fails, else R155's (R166). -/
def answerRequest (t : Tables) (r : Request) : List OutEvent :=
  match checkRequest r with
  | .ok => serve t r.op (BitVec.ofNat 10 r.key) r.arg.value (cutBlocks r.data)
  | code => [.done code]

/-- The host events of a request (R47): one header, and for the CBC operations one `DAT` for each block and one `END`. -/
def requestEvents (op : Operation) (key16 : KeyContainer) (arg : Block) (blocks : List Block) : List HostEvent :=
  .hdr (encodeHeader op.code arg key16) :: (if chained op then blocks.map .dat ++ [.endReq] else [])

/-- The events that carry an abstract request, if it passes the checks: another one cannot be spelled or is answered
without the port (R56, R58). -/
def portEvents (r : Request) : Option (List HostEvent) :=
  match checkRequest r with
  | .ok => some (requestEvents r.op (BitVec.ofNat 16 r.key) r.arg.value (cutBlocks r.data))
  | _ => none

end Sys2Proof.Machine
end

