-- ==== Sys2Proof/Machine/Assembler.lean ====
section
/-! DEFINITION. The assembler lines of R57: a mnemonic, then key, block or IV, and for the CBC forms the blocks. -/

namespace Sys2Proof.Machine

/-- The value of a digit in a base. -/
def digitValue (base : Nat) (c : Char) : Option Nat :=
  let v :=
    if '0' ≤ c ∧ c ≤ '9' then c.toNat - '0'.toNat
    else if 'a' ≤ c ∧ c ≤ 'f' then c.toNat - 'a'.toNat + 10
    else if 'A' ≤ c ∧ c ≤ 'F' then c.toNat - 'A'.toNat + 10
    else base
  if v < base then some v else none

/-- Digits read onto an accumulator. -/
def readDigits (base : Nat) : Nat → List Char → Option Nat
  | acc, [] => some acc
  | acc, c :: cs =>
    match digitValue base c with
    | some d => readDigits base (acc * base + d) cs
    | none => none

/-- A number: hexadecimal after `0x`, binary (cell 0 first) after `0b`, else decimal (R57, D20). -/
def readNumber : List Char → Option Nat
  | [] => none
  | '0' :: 'x' :: c :: cs => readDigits 16 0 (c :: cs)
  | '0' :: 'b' :: c :: cs => readDigits 2 0 (c :: cs)
  | c :: cs => readDigits 10 0 (c :: cs)

/-- The operands between commas, spaces dropped. -/
def splitOperands : List Char → List Char → List (List Char)
  | acc, [] => [acc.reverse]
  | acc, c :: cs =>
    if c = ',' then acc.reverse :: splitOperands [] cs
    else if c = ' ' then splitOperands acc cs
    else splitOperands (c :: acc) cs

/-- Every operand as a number, or none. -/
def readNumbers : List (List Char) → Option (List Nat)
  | [] => some []
  | x :: xs =>
    match readNumber x, readNumbers xs with
    | some n, some ns => some (n :: ns)
    | _, _ => none

/-- The mnemonic at the head of a line and the rest of the line (R57). -/
def readMnemonic : List Char → Option (Operation × List Char)
  | 'E' :: 'N' :: 'C' :: 'B' :: ' ' :: rest => some (.encb, rest)
  | 'D' :: 'E' :: 'C' :: 'B' :: ' ' :: rest => some (.decb, rest)
  | 'E' :: 'N' :: 'C' :: 'C' :: 'B' :: 'C' :: ' ' :: rest => some (.enccbc, rest)
  | 'D' :: 'E' :: 'C' :: 'C' :: 'B' :: 'C' :: ' ' :: rest => some (.deccbc, rest)
  | _ => none

/-- The blocks of a line, each an 8-bit number. -/
def readBlocks : List Nat → Option (List Bool)
  | [] => some []
  | n :: ns =>
    if n < 2 ^ 8 then
      match readBlocks ns with
      | some bits => some (bitsOfBlock (BitVec.ofNat 8 n) ++ bits)
      | none => none
    else none

/-- The request of a line: operands key first, then block or IV, then data (R57). -/
def readLine (line : List Char) : Option Request :=
  match readMnemonic line with
  | none => none
  | some (op, rest) =>
    match readNumbers (splitOperands [] rest) with
    | some (key :: arg :: blocks) =>
      match readBlocks blocks with
      | some data => some { op, key, arg := .number arg, data }
      | none => none
    | _ => none

/-- "The line stands for the event sequence of rule R47" (R57). -/
def assembleLine (line : List Char) : Option (List HostEvent) :=
  match readLine line with
  | some r => portEvents r
  | none => none

/-- "A program is a sequence of such lines, served one after another" (R57). -/
def assemble : List (List Char) → Option (List HostEvent)
  | [] => some []
  | line :: lines =>
    match assembleLine line, assemble lines with
    | some es, some more => some (es ++ more)
    | _, _ => none

end Sys2Proof.Machine
end

