-- ==== Sys2Proof/Machine/Variants.lean ====
section
/-! DEFINITION. The two freedoms the spec leaves an implementation and calls unobservable: a subkey cache (`CACHE`, R25,
R187) and CBC decryption of all blocks at once (`DECRYPT_PARALLEL`, R43, R185). -/

namespace Sys2Proof.Machine

/-- A subkey cache, keyed by the key value. -/
abbrev SubkeyCache := List (Key × (Subkey × Subkey))

/-- "must not be shared across key values": an entry holds the pair of its own key (R25, R187). -/
def cacheSound (t : Tables) (c : SubkeyCache) : Prop := ∀ e ∈ c, e.2 = ks t e.1

/-- The key schedule served from a cache: a hit returns the stored pair, a miss computes and stores it. -/
def ksCached (t : Tables) (c : SubkeyCache) (key : Key) : (Subkey × Subkey) × SubkeyCache :=
  match c.find? fun e => e.1 == key with
  | some e => (e.2, c)
  | none => (ks t key, (key, ks t key) :: c)

/-- The feedbacks of a decryption, known before any block is computed: the IV, then the ciphertext blocks (R126). -/
def feedbacks (cs : List Block) (iv : Block) : List Block := iv :: cs

/-- `CBCD` with every cipher call made independently and the XORs made afterwards (R43, R185). -/
def cbcdParallel (t : Tables) (cs : List Block) (key : Key) (iv : Block) : List Block :=
  List.zipWith (fun c fb => decrypt t c key ^^^ fb) cs (feedbacks cs iv)

end Sys2Proof.Machine
end

