-- ==== Sys2Proof/Machine/Fine.lean ====
section
/-! DEFINITION. The optional refinement of the coarse step by fine steps through `S` and `PHASE` (R150 to R154). The
coarse step of Machine/Step.lean is the normative one; this machine is beside it. -/

namespace Sys2Proof.Machine

/-- Where the rule that asked for a cipher call is (the model's own, log entry 8): the block it captured, and after R153
the block handed back. -/
inductive Micro where
  /-- no rule is in progress: the next host event may be taken -/
  | idle
  /-- a block is pending (precondition of R150) -/
  | pending (b : Block)
  /-- inside the block cipher, `PHASE` says which round is next -/
  | inside (b : Block)
  /-- round 2 has run: "then the result is ready" (R152) -/
  | ready (b : Block)
  /-- `y` "is handed back to the rule that asked" (R153) -/
  | unloaded (b y : Block)
  deriving DecidableEq, Repr

/-- A machine stepped finely: the spec's state and the micro-step in progress. -/
structure FineState where
  core  : State
  micro : Micro
  deriving DecidableEq, Repr

/-- A coarse outcome, nothing in progress. -/
def settled : Host.Outcome State Fault Refusal → Host.Outcome FineState Fault Refusal
  | .next s => .next ⟨s, .idle⟩
  | .fault r => .fault r
  | .refused r => .refused r

/-- A single-block header up to its cipher call: the check, `OP`, `KS` (first row of program P6). -/
def fineHeader (op : OpCode) (key16 : KeyContainer) (block : Block) (s : State) :
    Host.Outcome FineState Fault Refusal :=
  acceptHeader key16 s (fun s' => ⟨s', .idle⟩) fun key => .next ⟨latchHeader op key s, .pending block⟩

/-- The event taken when no rule is in progress: the ones that call the cipher stop before the call. -/
def fineAccept (i : Instr) (s : State) : Host.Outcome FineState Fault Refusal :=
  match i with
  | .encb key16 block => fineHeader 0#2 key16 block s
  | .decb key16 block => fineHeader 1#2 key16 block s
  | .dat b => acceptInRequest .datWhileIdle s (.next ⟨s, .pending b⟩)
  | other => settled (exec other s)

/-- The block `x` handed to the cipher: `b XOR FB` for `ENCCBC`, else the block itself (section 3 of file 45).
`OP` is read before `FB` (log entry 2). -/
def cipherInput {σ : Type} (b : Block) (s : State) (use : Block → Host.Outcome σ Fault Refusal) :
    Host.Outcome σ Fault Refusal :=
  readReg .op s.op fun op =>
    if opChains op && !opDecrypts op then readReg .fb s.fb fun fb => use (b ^^^ fb) else use b

/-- Load (R150). -/
def fineLoad (b : Block) (s : State) : Host.Outcome FineState Fault Refusal :=
  if s.phase ≠ .none then .fault .noMicroStep
  else cipherInput b s fun x =>
    .next ⟨{ s with roundS := some (cryptLoad s.tables x), phase := .r1 }, .inside b⟩

/-- Round 1 and the swap (R151), or round 2 (R152), as `PHASE` says. DESIGN CHOICE (log entry 2): `OP` and both subkeys
are read before `S`, though a round uses one subkey, so which `NOVAL` the fault names, and the stop where only the unused
subkey holds it, are the model's; R26 and R11 rule those states out. -/
def fineRound (b : Block) (s : State) : Host.Outcome FineState Fault Refusal :=
  readReg .op s.op fun op => readSubkeys s fun k1 k2 => readReg .s s.roundS fun x =>
    match s.phase with
    | .none => .fault .noMicroStep
    | .r1 => .next ⟨{ s with roundS := some (cryptRound1 s.tables x (firstSubkey op k1 k2)), phase := .r2 }, .inside b⟩
    | .r2 => .next ⟨{ s with roundS := some (cryptRound2 s.tables x (secondSubkey op k1 k2)) }, .ready b⟩

/-- Unload (R153). -/
def fineUnload (b : Block) (s : State) : Host.Outcome FineState Fault Refusal :=
  readReg .s s.roundS fun x => .next ⟨leaveCipher s, .unloaded b (cryptUnload s.tables x)⟩

/-- The rest of the rule that asked: R142, R145 with R127, or R146 with R129. `OP` is read before `FB` (log entry 2). -/
def fineFinish (b y : Block) (s : State) : Host.Outcome FineState Fault Refusal :=
  readReg .op s.op fun op =>
    if opChains op then
      if opDecrypts op then readReg .fb s.fb fun fb => .next ⟨emit (.out (y ^^^ fb)) (chainOn b s), .idle⟩
      else .next ⟨emit (.out y) (chainOn y s), .idle⟩
    else .next ⟨answerSingle y s, .idle⟩

/-- One fine step: "there is no other order: each enables only the next" (R154). -/
def fineStep (f : FineState) : Host.Outcome FineState Fault Refusal :=
  match f.micro with
  | .idle =>
    match f.core.input with
    | [] => .next f
    | e :: rest => fineAccept (decodeEvent e) { f.core with input := rest }
  | .pending b => fineLoad b f.core
  | .inside b => fineRound b f.core
  | .ready b => fineUnload b f.core
  | .unloaded b y => fineFinish b y f.core

/-- A host event offered while a rule is in progress: `RESET` is accepted in every state, anything else has no
transition (third row of R141, R168, R181). -/
def fineEvent (e : HostEvent) (f : FineState) : Host.Outcome FineState Fault Refusal :=
  match e with
  | .reset => .next ⟨resetState f.core, .idle⟩
  | .hdr _ => .fault .eventInsideBlock
  | .dat _ => .fault .eventInsideBlock
  | .endReq => .fault .eventInsideBlock

/-- `n` fine steps, stopping at the first stop. -/
def fineRun : Nat → FineState → Host.Outcome FineState Fault Refusal
  | 0, f => .next f
  | n + 1, f =>
    match fineStep f with
    | .next g => fineRun n g
    | .fault r => .fault r
    | .refused r => .refused r

end Sys2Proof.Machine
end

