-- ==== Sys2Proof/Safety.lean ====
section
/-! DEFINITION. What claims are stated in: the validity invariants of R26, a complete run (R156), a run without
violations (R177). -/

namespace Sys2Proof.Machine

/-- Row 1 of R26: no request open. -/
def State.closed (s : State) : Bool :=
  s.mode == .idle && s.phase == .none && s.op == none && s.k1 == none && s.k2 == none && s.roundS == none &&
    s.fb == none && s.idx == 0

/-- Row 2 of R26: a CBC request open, between blocks. -/
def State.betweenBlocks (s : State) : Bool :=
  s.mode == .cbc && s.phase == .none && (s.op == some 2#2 || s.op == some 3#2) && s.k1.isSome && s.k2.isSome &&
    s.roundS == none && s.fb.isSome

/-- The invariant of R26 over coarse steps, with well-formed `TABLES` (R77). -/
def State.valid (s : State) : Bool := s.tables.wellFormed && (s.closed || s.betweenBlocks)

/-- `K1` and `K2` hold the pair of one key, or both hold `NOVAL` (R11, R88). -/
def State.subkeysPaired (s : State) : Prop :=
  (s.k1 = none ∧ s.k2 = none) ∨ ∃ key, s.k1 = some (ks s.tables key).1 ∧ s.k2 = some (ks s.tables key).2

/-- The registers of the spec's tuple are the reset state's (R28): everything but `OUTLOG`, `TABLES` and the model's
own fields. -/
def State.registersReset (s : State) : Prop :=
  s.mode = .idle ∧ s.phase = .none ∧ s.op = none ∧ s.k1 = none ∧ s.k2 = none ∧ s.roundS = none ∧ s.fb = none ∧ s.idx = 0

/-- A complete run: every event consumed, every opened request has had its `DONE` (R156). -/
def State.complete (s : State) : Bool := s.input == [] && s.mode == .idle && s.phase == .none

/-- Every `DONE` in `OUTLOG` has code 0 (R177). -/
def State.noViolation (s : State) : Bool :=
  s.outlog.all fun e =>
    match e with
    | .out _ => true
    | .done st => st == .ok

/-- Row 3 of R26: inside a block, and the same registers just before the load and just after the unload, where a rule
has captured its block. -/
def FineState.midBlock (f : FineState) : Bool :=
  f.core.op.isSome && f.core.k1.isSome && f.core.k2.isSome &&
    (match f.core.op with
      | some op =>
        (f.core.mode == .cbc) == opChains op && f.core.fb.isSome == opChains op && (opChains op || f.core.idx == 0)
      | none => false)

/-- The invariant of R26 over fine steps. -/
def FineState.valid (f : FineState) : Bool :=
  f.core.tables.wellFormed &&
    match f.micro with
    | .idle => f.core.closed || f.core.betweenBlocks
    | .pending _ => f.midBlock && f.core.phase == .none && f.core.roundS == none
    | .inside _ => f.midBlock && f.core.phase != .none && f.core.roundS.isSome
    | .ready _ => f.midBlock && f.core.phase == .r2 && f.core.roundS.isSome
    | .unloaded _ _ => f.midBlock && f.core.phase == .none && f.core.roundS == none

end Sys2Proof.Machine
end

