-- ==== Sys2Proof/Certificates/Slice0/Obligations.lean ====
section
/-! DEFINITION. The statements for the provers, each from numbered rules of spec/. Those about the cipher hold for every
well-formed `TABLES`; the few about `TABLES_STD` (PRESUMED, log entry 1) say so. -/

open Sys2Proof Sys2Proof.Machine

/-! ### Encoding (file 30) -/

/-- Decoding an encoded instruction gives it back, every operand at every value (R51 to R56). -/
def Obligations.DecodeOfEncodeIsIdentity : Prop :=
  ∀ (i : Instr) (e : HostEvent), i.wellFormed = true → encode i = some e → decodeEvent e = i

/-- Every host event, each of the `2^26` header words among them, reads as one well-formed instruction whose encoding is
that event: so no event reads as an internal operation (R54, R55, R56). -/
def Obligations.EncodeOfDecodeIsIdentity : Prop :=
  ∀ e : HostEvent, encode (decodeEvent e) = some e ∧ (decodeEvent e).wellFormed = true

/-- The header word is `OP << 24 | ARG << 16 | KEY16` (R51), and the table word with that number decodes to the
operation of its `OP`. That 32 bits hold the word is the model's choice (log entry 4). -/
def Obligations.HeaderWordIsPlacedFields : Prop :=
  ∀ (op : OpCode) (arg : Block) (key16 : KeyContainer),
    (encodeHeader op arg key16).toNat = op.toNat * 2 ^ 24 + arg.toNat * 2 ^ 16 + key16.toNat ∧
      decodeTableWord 32 (op.toNat * 2 ^ 24 + arg.toNat * 2 ^ 16 + key16.toNat) =
        some ((Operation.ofCode op).toInstr key16 arg)

/-- `decode(h)` of R54, on all `2^26` words, by the arithmetic of the integer numbering (R7). -/
def Obligations.HeaderClassification : Prop :=
  ∀ h : HeaderWord,
    classifyHeader h =
      if h.toNat / 2 ^ 10 % 2 ^ 6 ≠ 0 then .error .cvKeyWidth
      else .ok (match h.toNat / 2 ^ 24 with
          | 0 => .encb
          | 1 => .decb
          | 2 => .enccbc
          | _ => .deccbc,
        BitVec.ofNat 10 (h.toNat % 2 ^ 10), BitVec.ofNat 8 (h.toNat / 2 ^ 16 % 2 ^ 8))

/-- Words written out from R57's table and from section 10 of 95_test_vectors.md read as what they stand for; the number
of bits a word is given in is the model's choice (log entry 4). -/
def Obligations.SpecWordsDecode : Prop :=
  decodeTableWord 32 0x0720282 = some (.encb 0x0282#16 0x72#8) ∧
    decodeTableWord 32 0x1810282 = some (.decb 0x0282#16 0x81#8) ∧
    decodeTableWord 32 0x2AA01FD = some (.enccbc 0x01FD#16 0xAA#8) ∧
    decodeTableWord 32 0x3AA01FD = some (.deccbc 0x01FD#16 0xAA#8) ∧
    decodeTableWord 32 0x0720682 = some (.encb 0x0682#16 0x72#8) ∧
    decodeTableWord 8 0x48 = some (.dat 0x48#8) ∧
    decodeTableWord 32 0x4000000 = none

/-- A step consumes the next host event and runs the instruction it decodes to; with no event waiting nothing changes
(log entry 3), and a word placed by `withFetchWord` is the one the next step runs. -/
def Obligations.StepRunsDecodedEvent : Prop :=
  (∀ (s : State) (e : HostEvent) (rest : List HostEvent), s.input = e :: rest →
      (decodeEvent e).wellFormed = true ∧ step s = exec (decodeEvent e) { s with input := rest }) ∧
    (∀ s : State, s.input = [] → step s = .next s) ∧
    ∀ (s : State) (nbits w : Nat) (i : Instr), decodeTableWord nbits w = some i →
      step (s.withFetchWord nbits w) = exec i s

/-! ### The datapath (files 40 to 43) -/

/-- `PERM`: output cell `i` is source cell `T[i]` (R78), where cell `j` of a `w`-bit value is integer bit `w-1-j` (R7). -/
def Obligations.PermSelectsCells : Prop :=
  ∀ (n w : Nat) (t : IndexTable n w) (v : BitVec w),
    (∀ i : Fin n, cell (perm t v) i = cell v t[i].val) ∧ ∀ j, j < w → cell v j = v.getLsbD (w - 1 - j)

/-- `PERM` distributes over XOR and keeps zero (R80). -/
def Obligations.PermIsXorLinear : Prop :=
  ∀ (n w : Nat) (t : IndexTable n w) (a b : BitVec w),
    perm t (a ^^^ b) = perm t a ^^^ perm t b ∧ perm t 0#w = 0#n

/-- `ROL5` is `rol_5` by 1 or 2: result cell `i` is `h<(i+k) mod 5>`, as integers
`((h << k) OR (h >> (5-k))) AND 0b11111`; two shifts in a row add up (R85). -/
def Obligations.Rol5RotatesTowardCellZero : Prop :=
  rotBy .one = 1 ∧ rotBy .two = 2 ∧ ∀ (h : KeyHalf) (k : RotAmount),
    rol5 h k = rol h (rotBy k) ∧ (∀ i : Fin 5, cell (rol5 h k) i = cell h ((i + rotBy k) % 5)) ∧
      (rol5 h k).toNat = (h.toNat <<< rotBy k ||| h.toNat >>> (5 - rotBy k)) &&& 31 ∧
      rol5 (rol5 h .one) .two = rol h 3

/-- The closed form of the key schedule: `K1` from shifts by 1, `K2` from shifts by 3 in all, of the two halves of the
permuted key (R90). -/
def Obligations.KeyScheduleClosedForm : Prop :=
  ∀ (t : Tables) (key : Key),
    keyLeft (perm t.p10 key) ++ keyRight (perm t.p10 key) = perm t.p10 key ∧
      (ks t key).1 = perm t.p8 (rol (keyLeft (perm t.p10 key)) 1 ++ rol (keyRight (perm t.p10 key)) 1) ∧
      (ks t key).2 = perm t.p8 (rol (keyLeft (perm t.p10 key)) 3 ++ rol (keyRight (perm t.p10 key)) 3)

/-- `KS` maps all zeros to all zeros and all ones to all ones, whatever the tables (R87, corner cases). -/
def Obligations.KeyScheduleOfConstantKeys : Prop :=
  ∀ t : Tables, ks t 0x000#10 = (0x00#8, 0x00#8) ∧ ks t 0x3FF#10 = (0xFF#8, 0xFF#8)

/-- The closed form of R91 under `TABLES_STD` (PRESUMED, log entry 1). -/
def Obligations.KeyScheduleStdClosedForm : Prop :=
  ∀ key : Key,
    (ks tablesStd key).1 = blockOfBits (cell key 0) (cell key 6) (cell key 8) (cell key 3) (cell key 7) (cell key 2)
        (cell key 9) (cell key 5) ∧
      (ks tablesStd key).2 = blockOfBits (cell key 7) (cell key 2) (cell key 5) (cell key 4) (cell key 9) (cell key 1)
        (cell key 8) (cell key 0)

/-- `SBOX(S, n)` is the entry at row `n[3:2]` and column `n[1:0]` (R97). -/
def Obligations.SboxRowIsTopTwoBits : Prop :=
  ∀ (box : SBoxTable) (n : BitVec 4) (r c : Fin 4), r.val = n.toNat / 4 → c.val = n.toNat % 4 →
    sbox box n = (box[r])[c]

/-- `F` is the four lines of R99: `EP`, XOR, the left half into `S0` and the right half into `S1`, `P4`. It reads the right
half of the round state only (R99, corner case); the new left half of a round is `L XOR F(s, k)` and the right half passes
through (R100). -/
def Obligations.RoundReadsAndPassesRightHalf : Prop :=
  ∀ (t : Tables) (s : Block) (k : Subkey),
    roundF t s k = perm t.p4
        (sbox t.s0 (leftHalf (perm t.ep s ^^^ k)) ++ sbox t.s1 (rightHalf (perm t.ep s ^^^ k))) ∧
      leftHalf (roundFK t s k) = leftHalf s ^^^ roundF t s k ∧ rightHalf (roundFK t s k) = rightHalf s ∧
      ∀ s' : Block, t.wellFormed = true → rightHalf s = rightHalf s' → roundF t s k = roundF t s' k

/-- A round undoes itself (R102). -/
def Obligations.RoundIsInvolution : Prop :=
  ∀ (t : Tables) (s : Block) (k : Subkey), t.wellFormed = true → roundFK t (roundFK t s k) k = s

/-- `SW` exchanges the halves: `R ‖ L`, as integers `((s AND 0x0F) << 4) OR (s >> 4)`; it is an involution, its fixed
points are where `L = R`, and `SW(0x49) = 0x94` (R101). -/
def Obligations.SwapExchangesHalves : Prop :=
  swapHalves 0x49#8 = 0x94#8 ∧ ∀ s : Block,
    swapHalves s = rightHalf s ++ leftHalf s ∧ swapHalves s = ((s &&& 0x0F#8) <<< 4 ||| s >>> 4) ∧
      swapHalves (swapHalves s) = s ∧
      (swapHalves s = s ↔ leftHalf s = rightHalf s)

/-- `IPINV` undoes `IP` and `IP` undoes `IPINV` (R73, used both ways by R116). -/
def Obligations.InitialPermutationInverse : Prop :=
  ∀ (t : Tables) (v : Block), t.wellFormed = true →
    perm t.ipinv (perm t.ip v) = v ∧ perm t.ip (perm t.ipinv v) = v

/-- Block round trip, both ways (R116). -/
def Obligations.BlockRoundTrip : Prop :=
  ∀ (t : Tables) (b : Block) (key : Key), t.wellFormed = true →
    decrypt t (encrypt t b key) key = b ∧ encrypt t (decrypt t b key) key = b

/-- For each key `Encrypt` is a bijection on the blocks and `Decrypt` its inverse (R117). -/
def Obligations.EncryptIsBijection : Prop :=
  ∀ (t : Tables) (key : Key), t.wellFormed = true →
    Function.Bijective (fun b => encrypt t b key) ∧
      ∀ b c : Block, encrypt t b key = c ↔ decrypt t c key = b

/-- Equal subkeys make encryption its own inverse (R118, first sentence). -/
def Obligations.EqualSubkeysSelfInverse : Prop :=
  ∀ (t : Tables) (key : Key), t.wellFormed = true → (ks t key).1 = (ks t key).2 →
    ∀ b : Block, encrypt t b key = decrypt t b key ∧ encrypt t (encrypt t b key) key = b

/-- The eight keys of R118 under `TABLES_STD` (PRESUMED, log entry 1). -/
def Obligations.StdSelfInverseKeys : Prop :=
  ∀ key : Key, (ks tablesStd key).1 = (ks tablesStd key).2 ↔
    key ∈ [0x000#10, 0x060#10, 0x188#10, 0x1E8#10, 0x217#10, 0x277#10, 0x39F#10, 0x3FF#10]

/-- The avalanche property of R119 in its strong form, under `TABLES_STD` (PRESUMED, log entry 1): for every key, flipping
any one key cell changes the ciphertext of some block. -/
def Obligations.StdAvalanche : Prop :=
  ∀ (key : Key) (i : Fin 10), ∃ b : Block,
    encrypt tablesStd b (key ^^^ BitVec.twoPow 10 (9 - i)) ≠ encrypt tablesStd b key

/-- A sound subkey cache is unobservable and stays sound (R25, R187). -/
def Obligations.SubkeyCacheUnobservable : Prop :=
  ∀ (t : Tables) (c : SubkeyCache) (key : Key), cacheSound t c →
    (ksCached t c key).1 = ks t key ∧ cacheSound t (ksCached t c key).2

/-! ### CBC (file 44) -/

/-- The recurrence of `CBCE`, and its length (R126, R128, R131). -/
def Obligations.CbcEncryptRecurrence : Prop :=
  ∀ (t : Tables) (ps : List Block) (key : Key) (iv : Block),
    (cbce t ps key iv).length = ps.length ∧
      ∀ (i : Nat) (p c : Block), ps[i]? = some p → (iv :: cbce t ps key iv)[i]? = some c →
        (cbce t ps key iv)[i]? = some (encrypt t (p ^^^ c) key)

/-- The recurrence of `CBCD`, and its length: block `i` needs ciphertext blocks `i` and `i-1` (or the IV) only (R126,
R130, R131). -/
def Obligations.CbcDecryptRecurrence : Prop :=
  ∀ (t : Tables) (cs : List Block) (key : Key) (iv : Block),
    (cbcd t cs key iv).length = cs.length ∧
      ∀ (i : Nat) (c fb : Block), cs[i]? = some c → (iv :: cs)[i]? = some fb →
        (cbcd t cs key iv)[i]? = some (decrypt t c key ^^^ fb)

/-- CBC round trip; decrypting with a different IV changes block 0 only, by the difference of the IVs (R132). -/
def Obligations.CbcRoundTrip : Prop :=
  ∀ (t : Tables) (ps : List Block) (key : Key) (iv : Block), t.wellFormed = true →
    cbcd t (cbce t ps key iv) key iv = ps ∧
      ∀ (iv' p : Block), cbcd t (cbce t (p :: ps) key iv) key iv' = (p ^^^ iv ^^^ iv') :: ps

/-- Changing plaintext block `i` changes ciphertext block `i` and all later ones, and no earlier one (R134). -/
def Obligations.PlaintextChangePropagates : Prop :=
  ∀ (t : Tables) (before after : List Block) (x y : Block) (key : Key) (iv : Block), t.wellFormed = true → x ≠ y →
    ∀ i : Nat, i < (before ++ x :: after).length →
      ((cbce t (before ++ x :: after) key iv)[i]? = (cbce t (before ++ y :: after) key iv)[i]? ↔ i < before.length)

/-- Changing ciphertext block `i` changes plaintext blocks `i` and `i+1`, and no other (R134, last sentence; R130). -/
def Obligations.CiphertextChangeTouchesTwoBlocks : Prop :=
  ∀ (t : Tables) (before after : List Block) (x y : Block) (key : Key) (iv : Block), t.wellFormed = true → x ≠ y →
    ∀ i : Nat, i < (before ++ x :: after).length →
      ((cbcd t (before ++ x :: after) key iv)[i]? = (cbcd t (before ++ y :: after) key iv)[i]? ↔
        i ≠ before.length ∧ i ≠ before.length + 1)

/-- A message cut in two, the last ciphertext block handed on as IV, gives the same blocks (R147, corner case). -/
def Obligations.MessageContinuation : Prop :=
  ∀ (t : Tables) (ps qs cs ds : List Block) (c : Block) (key : Key) (iv : Block),
    (cbce t ps key iv = cs ++ [c] → cbce t (ps ++ qs) key iv = cbce t ps key iv ++ cbce t qs key c) ∧
      cbcd t (cs ++ [c] ++ ds) key iv = cbcd t (cs ++ [c]) key iv ++ cbcd t ds key c

/-- Decrypting all blocks at once gives the same blocks (R43, R185). -/
def Obligations.ParallelDecryptionUnobservable : Prop :=
  ∀ (t : Tables) (cs : List Block) (key : Key) (iv : Block), cbcdParallel t cs key iv = cbcd t cs key iv

/-! ### The commands (file 45) -/

/-- `ENCB` and `DECB`: with no request open, a 10-bit key is answered `OUT(y)`, `DONE(0)` with `y` the `Encrypt` or
`Decrypt` of the block (held to R111 to R113 by CipherOperationsComplete); only `OUTLOG` and the registers `OP`, `K1`, `K2`, `S` (to `NOVAL`) are written (R142). -/
def Obligations.SingleBlockAnswers : Prop :=
  ∀ (s : State) (key16 : KeyContainer) (block : Block), s.mode = .idle → s.phase = .none → keyHigh key16 = 0#6 →
    exec (.encb key16 block) s = .next { s with
        outlog := s.outlog ++ [.out (encrypt s.tables block (keyLow key16)), .done .ok]
        op := none, k1 := none, k2 := none, roundS := none } ∧
      exec (.decb key16 block) s = .next { s with
        outlog := s.outlog ++ [.out (decrypt s.tables block (keyLow key16)), .done .ok]
        op := none, k1 := none, k2 := none, roundS := none }

/-- `ENCCBC` and `DECCBC`: with no request open and a 10-bit key, `OP`, `K1`, `K2`, `FB`, `IDX`, `MODE` are written and
nothing is emitted (R144). -/
def Obligations.CbcHeaderOpensRequest : Prop :=
  ∀ (s : State) (key16 : KeyContainer) (iv : Block), s.mode = .idle → s.phase = .none → keyHigh key16 = 0#6 →
    exec (.enccbc key16 iv) s = .next { s with
        op := some 2#2, k1 := some (ks s.tables (keyLow key16)).1, k2 := some (ks s.tables (keyLow key16)).2
        fb := some iv, idx := 0, mode := .cbc } ∧
      exec (.deccbc key16 iv) s = .next { s with
        op := some 3#2, k1 := some (ks s.tables (keyLow key16)).1, k2 := some (ks s.tables (keyLow key16)).2
        fb := some iv, idx := 0, mode := .cbc }

/-- A header whose container holds more than 10 bits: `DONE(CV_KEY_WIDTH)` and nothing else, the state after the step
equal to the state before it but for `OUTLOG` (R162, R165). The codes are numbered 0 to 3 as R161 lists them, and a
payload reads back as its code. -/
def Obligations.WideKeyIsRejected : Prop :=
  (statusCode .ok = 0#2 ∧ statusCode .cvKeyWidth = 1#2 ∧ statusCode .cvBlockWidth = 2#2 ∧
      statusCode .cvBufferLength = 3#2 ∧ ∀ st, statusOf (statusCode st) = st) ∧
    ∀ (s : State) (op : Operation) (key16 : KeyContainer) (arg : Block),
      s.mode = .idle → s.phase = .none → keyHigh key16 ≠ 0#6 →
        exec (op.toInstr key16 arg) s = .next { s with outlog := s.outlog ++ [.done .cvKeyWidth] }

/-- `DAT` of an `ENCCBC` request: `c = ENC(b XOR FB)`, `FB <- c`, `IDX + 1`, `OUT(c)` (R127, R145). -/
def Obligations.DatEncryptsBlock : Prop :=
  ∀ (s : State) (b k1 k2 fb : Block), s.mode = .cbc → s.phase = .none → s.op = some 2#2 → s.k1 = some k1 →
    s.k2 = some k2 → s.fb = some fb →
      exec (.dat b) s = .next { s with
        fb := some (crypt s.tables (b ^^^ fb) k1 k2), idx := s.idx + 1, roundS := none
        outlog := s.outlog ++ [.out (crypt s.tables (b ^^^ fb) k1 k2)] }

/-- `DAT` of a `DECCBC` request: `p = DEC(b) XOR FB`, `FB <- b`, `IDX + 1`, `OUT(p)` (R129, R146). -/
def Obligations.DatDecryptsBlock : Prop :=
  ∀ (s : State) (b k1 k2 fb : Block), s.mode = .cbc → s.phase = .none → s.op = some 3#2 → s.k1 = some k1 →
    s.k2 = some k2 → s.fb = some fb →
      exec (.dat b) s = .next { s with
        fb := some b, idx := s.idx + 1, roundS := none
        outlog := s.outlog ++ [.out (crypt s.tables b k2 k1 ^^^ fb)] }

/-- `END`: `DONE(0)`, and every register back to its value with no request open (R147). -/
def Obligations.EndClosesRequest : Prop :=
  ∀ s : State, s.mode = .cbc → s.phase = .none →
    ∃ t, exec .endReq s = .next t ∧ t.registersReset ∧
      t.outlog = s.outlog ++ [.done .ok] ∧ t.tables = s.tables ∧ t.input = s.input ∧ t.result = s.result

/-- `RESET`: accepted in every state, no event emitted, `OUTLOG` and `TABLES` as they were (R180); so an open request
is abandoned without a `DONE` (R181). That `input` stays and `result` is cleared is the model's choice (log entries 3
and 5). -/
def Obligations.ResetFromEveryState : Prop :=
  (∀ s : State, ∃ t, exec .reset s = .next t ∧ t.registersReset ∧
      t.outlog = s.outlog ∧ t.tables = s.tables ∧ t.input = s.input ∧ t.result = none) ∧
    ∀ (s : State) (rest : List HostEvent), s.input = .reset :: rest →
      ∃ t, step s = .next t ∧ t.registersReset ∧ t.outlog = s.outlog ∧ t.tables = s.tables ∧ t.input = rest

/-- Which events are accepted where (R141): inside a block `RESET` alone; else, in every valid state, a header exactly
with no request open, `DAT` and `END` exactly with one open. -/
def Obligations.EventAcceptanceTable : Prop :=
  (∀ (s : State) (e : HostEvent), s.phase ≠ .none →
      ((∃ t, exec (decodeEvent e) s = .next t) ↔ e = .reset)) ∧
    ∀ s : State, s.valid = true →
      (∀ h, (∃ t, exec (decodeEvent (.hdr h)) s = .next t) ↔ s.mode = .idle) ∧
        (∀ b, (∃ t, exec (decodeEvent (.dat b)) s = .next t) ↔ s.mode = .cbc) ∧
        ((∃ t, exec (decodeEvent .endReq) s = .next t) ↔ s.mode = .cbc) ∧
        ∃ t, exec (decodeEvent .reset) s = .next t

/-- An event that does not fit the request grammar has no transition (R168): a fault of the model by name, which is the
model's form for it (log entry 7). -/
def Obligations.OutOfGrammarEventsStop : Prop :=
  (∀ (s : State) (op : Operation) (key16 : KeyContainer) (arg : Block), s.phase = .none → s.mode = .cbc →
      exec (op.toInstr key16 arg) s = .fault .hdrWhileOpen) ∧
    (∀ (s : State) (b : Block), s.phase = .none → s.mode = .idle → exec (.dat b) s = .fault .datWhileIdle) ∧
    (∀ s : State, s.phase = .none → s.mode = .idle → exec .endReq s = .fault .endWhileIdle) ∧
    ∀ (s : State) (e : HostEvent), s.phase ≠ .none → e ≠ .reset →
      exec (decodeEvent e) s = .fault .eventInsideBlock

/-! ### The internal operations as instructions -/

/-- `PERM` returns the selected cells and writes no register of the spec, for every table whose entries are cells of the
source (R78; `result` and running it by itself are log entries 5 and 6). That a table may be given inline at any width, and
that `exec` refuses an inline table with an entry out of range, is the model's choice (log entry 12). -/
def Obligations.PermReturnsSelectedCells : Prop :=
  (∀ (t : TableRef) (w : Nat) (v : BitVec w) (s : State), (Instr.perm t w v).wellFormed = true →
      ∃ y : BitVec (tableEntries s.tables t).length,
        exec (.perm t w v) s = .next { s with result := some (.bits _ y) } ∧
          ∀ (i : Nat) (j : Nat), (tableEntries s.tables t)[i]? = some j → cell y i = cell v j) ∧
    ∀ (l : List Nat) (w : Nat) (v : BitVec w) (s : State), (∃ j ∈ l, w ≤ j) →
      exec (.perm (.inline l) w v) s = .refused .malformedTable

/-- `ROL5`, `SBOX`, `F`, `FK`, `SW` complete in every state, return their value, that of `F` spelled out as R99's four
lines, and write no register of the spec (R85, R97, R99, R100, R101, R103; `result` and running them by themselves are log
entries 5 and 6). -/
def Obligations.DatapathOperationsReturn : Prop :=
  ∀ s : State,
    (∀ h k, exec (.rol5 h k) s = .next { s with result := some (.bits 5 (rol h (rotBy k))) }) ∧
      (∀ n, exec (.sbox .s0 n) s = .next { s with result := some (.bits 2 (sbox s.tables.s0 n)) }) ∧
      (∀ n, exec (.sbox .s1 n) s = .next { s with result := some (.bits 2 (sbox s.tables.s1 n)) }) ∧
      (∀ x k, exec (.f x k) s = .next { s with
        result := some (.bits 4 (perm s.tables.p4 (sbox s.tables.s0 (leftHalf (perm s.tables.ep x ^^^ k)) ++
          sbox s.tables.s1 (rightHalf (perm s.tables.ep x ^^^ k))))) }) ∧
      (∀ x k, exec (.fk x k) s = .next { s with
        result := some (.bits 8 ((leftHalf x ^^^ perm s.tables.p4 (sbox s.tables.s0 (leftHalf (perm s.tables.ep x ^^^ k)) ++
          sbox s.tables.s1 (rightHalf (perm s.tables.ep x ^^^ k)))) ++ rightHalf x)) }) ∧
      ∀ x, exec (.sw x) s = .next { s with result := some (.bits 8 (rightHalf x ++ leftHalf x)) }

/-- `KS` completes in every state and writes `K1` and `K2` together, from the one key, and nothing else of the spec
(R11, R87, R88; `result` is log entry 5). -/
def Obligations.KeyScheduleWritesPair : Prop :=
  ∀ (s : State) (key : Key),
    exec (.ks key) s = .next { s with
      k1 := some (ks s.tables key).1, k2 := some (ks s.tables key).2
      result := some (.pair (ks s.tables key).1 (ks s.tables key).2) }

/-- `CRYPT` completes in every state, `ENC` and `DEC` in every state that holds the subkeys; they leave `S = NOVAL` and
`PHASE = P_NONE` and write nothing else of the spec (R111, R112, R113; `result` and running them by themselves are log
entries 5 and 6). The value is R111's lines: `IP`, a round with the first subkey, the one `SW` (R192), a round with the
second, `IPINV`; `Encrypt` and `Decrypt` are `ENC` and `DEC` under the subkeys of `KS`. -/
def Obligations.CipherOperationsComplete : Prop :=
  ∀ (s : State) (b k1 k2 : Block) (key : Key),
    exec (.crypt b k1 k2) s = .next { s with
        roundS := none, phase := .none
        result := some (.bits 8 (perm s.tables.ipinv
          (roundFK s.tables (swapHalves (roundFK s.tables (perm s.tables.ip b) k1)) k2))) } ∧
      crypt s.tables b k1 k2 =
        perm s.tables.ipinv (roundFK s.tables (swapHalves (roundFK s.tables (perm s.tables.ip b) k1)) k2) ∧
      encrypt s.tables b key = crypt s.tables b (ks s.tables key).1 (ks s.tables key).2 ∧
      decrypt s.tables b key = crypt s.tables b (ks s.tables key).2 (ks s.tables key).1 ∧
      (s.k1 = some k1 → s.k2 = some k2 →
        exec (.enc b) s = .next { s with
            roundS := none, phase := .none, result := some (.bits 8 (crypt s.tables b k1 k2)) } ∧
          exec (.dec b) s = .next { s with
            roundS := none, phase := .none, result := some (.bits 8 (crypt s.tables b k2 k1)) })

/-- `CBCE_BLOCK` and `CBCD_BLOCK` complete in every state that holds the subkeys and a feedback; they write `FB` and
`IDX`, use `S` and `PHASE`, and emit nothing (R127, R129; `result` is log entry 5). -/
def Obligations.CbcBlockOperationsComplete : Prop :=
  ∀ (s : State) (b k1 k2 fb : Block), s.k1 = some k1 → s.k2 = some k2 → s.fb = some fb →
    exec (.cbceBlock b) s = .next { s with
        fb := some (crypt s.tables (b ^^^ fb) k1 k2), idx := s.idx + 1, roundS := none, phase := .none
        result := some (.bits 8 (crypt s.tables (b ^^^ fb) k1 k2)) } ∧
      exec (.cbcdBlock b) s = .next { s with
        fb := some b, idx := s.idx + 1, roundS := none, phase := .none
        result := some (.bits 8 (crypt s.tables b k2 k1 ^^^ fb)) }

/-- An instruction that reads a register holding `NOVAL` ends in a fault of the model, never in a value (R20): each read
of `OP`, `K1`, `K2` and `FB`. Which register the fault names when several hold `NOVAL` is the model's choice, the first in
the order of the spec's pseudocode (log entry 2). -/
def Obligations.NovalReadIsFault : Prop :=
  ∀ (s : State) (b : Block),
    (s.k1 = none → exec (.enc b) s = .fault (.readNoval .k1) ∧ exec (.dec b) s = .fault (.readNoval .k1)) ∧
      (s.k1 ≠ none → s.k2 = none →
        exec (.enc b) s = .fault (.readNoval .k2) ∧ exec (.dec b) s = .fault (.readNoval .k2)) ∧
      (s.fb = none → exec (.cbceBlock b) s = .fault (.readNoval .fb)) ∧
      (s.fb ≠ none → s.k1 = none → exec (.cbceBlock b) s = .fault (.readNoval .k1)) ∧
      (s.fb ≠ none → s.k1 ≠ none → s.k2 = none → exec (.cbceBlock b) s = .fault (.readNoval .k2)) ∧
      (s.k1 = none → exec (.cbcdBlock b) s = .fault (.readNoval .k1)) ∧
      (s.k1 ≠ none → s.k2 = none → exec (.cbcdBlock b) s = .fault (.readNoval .k2)) ∧
      (s.k1 ≠ none → s.k2 ≠ none → s.fb = none → exec (.cbcdBlock b) s = .fault (.readNoval .fb)) ∧
      (s.mode = .cbc → s.phase = .none →
        (s.op = none → exec (.dat b) s = .fault (.readNoval .op)) ∧
        (s.op = some 2#2 →
          (s.fb = none → exec (.dat b) s = .fault (.readNoval .fb)) ∧
          (s.fb ≠ none → s.k1 = none → exec (.dat b) s = .fault (.readNoval .k1)) ∧
          (s.fb ≠ none → s.k1 ≠ none → s.k2 = none → exec (.dat b) s = .fault (.readNoval .k2))) ∧
        (s.op = some 3#2 →
          (s.k1 = none → exec (.dat b) s = .fault (.readNoval .k1)) ∧
          (s.k1 ≠ none → s.k2 = none → exec (.dat b) s = .fault (.readNoval .k2)) ∧
          (s.k1 ≠ none → s.k2 ≠ none → s.fb = none → exec (.dat b) s = .fault (.readNoval .fb))))

/-! ### The whole machine -/

/-- The validity table of R26 is kept by every step. -/
def Obligations.ValidityKeptByStep : Prop :=
  ∀ s t : State, s.valid = true → step s = .next t → t.valid = true

/-- The state after reset meets R28 and R26, and so does the power-up of every well-formed `TABLES`; both hold no
subkeys. -/
def Obligations.ValidityAtReset : Prop :=
  State.reset.registersReset ∧ State.reset.outlog = [] ∧ State.reset.valid = true ∧ State.reset.subkeysPaired ∧
    ∀ t : Tables, t.wellFormed = true → (State.powerUp t).valid = true ∧ (State.powerUp t).subkeysPaired

/-- `K1` and `K2` always hold the pair of one key, or both `NOVAL`, and every step keeps it so (R11, R88, R189). -/
def Obligations.SubkeyPairKeptByStep : Prop :=
  ∀ s t : State, s.subkeysPaired → step s = .next t → t.subkeysPaired

/-- No step from a valid state reads `NOVAL` (R20). -/
def Obligations.ValidStatesNeverReadNoval : Prop :=
  ∀ (s : State) (r : RegName), s.valid = true → step s ≠ .fault (.readNoval r)

/-- No instruction writes `TABLES` or shortens `OUTLOG`, and none but the two single-block headers emits two events (R21,
R22, R27). That none takes an event from the host's queue is a fact of the model's own field `input` (log entry 3). -/
def Obligations.TablesConstantAndLogGrows : Prop :=
  ∀ (i : Instr) (s t : State), exec i s = .next t →
    t.tables = s.tables ∧ t.input = s.input ∧
      ∃ new, t.outlog = s.outlog ++ new ∧
        (new.length ≤ 1 ∨ (new.length = 2 ∧ ∃ key16 block, i = .encb key16 block ∨ i = .decb key16 block))

/-- Big-step meaning of a request (R155): served with no request open it appends R155's answer to `OUTLOG`, consumes
exactly its own events and leaves every register as it was; with a key wider than 10 bits the header alone is consumed
and answered `DONE(CV_KEY_WIDTH)`. The queue of events is log entry 3. -/
def Obligations.RequestBigStep : Prop :=
  ∀ (s : State) (op : Operation) (key16 : KeyContainer) (arg : Block) (blocks : List Block) (rest : List HostEvent),
    s.closed = true → s.input = requestEvents op key16 arg blocks ++ rest →
      (keyHigh key16 = 0#6 →
        core.run (requestEvents op key16 arg blocks).length s = .next { s with
          outlog := s.outlog ++ serve s.tables op (keyLow key16) arg blocks, input := rest }) ∧
        (keyHigh key16 ≠ 0#6 →
          core.run 1 s = .next { s with
            outlog := s.outlog ++ [.done .cvKeyWidth]
            input := (requestEvents op key16 arg blocks).tail ++ rest })

/-- A program of requests is served one after another: the answers in order, every register as before, the run complete
(R57, R156); if no `DONE` before carried a violation, none does after (R177). The queue of events is log entry 3. -/
def Obligations.ProgramServedInOrder : Prop :=
  ∀ (s : State) (requests : List (Operation × KeyContainer × Block × List Block)), s.closed = true →
    (∀ r ∈ requests, keyHigh r.2.1 = 0#6) →
    s.input = requests.flatMap (fun r => requestEvents r.1 r.2.1 r.2.2.1 r.2.2.2) →
      ∃ t, core.run s.input.length s = .next t ∧ t.complete = true ∧ t.closed = true ∧
        t.outlog = s.outlog ++ requests.flatMap (fun r => serve s.tables r.1 (keyLow r.2.1) r.2.2.1 r.2.2.2) ∧
        (s.noViolation = true → t.noViolation = true)

/-- No interference between requests: from any two closed states with the same `TABLES`, whatever came before, the same
request emits the same events (R40 item 4, R188). The queue of events is log entry 3. -/
def Obligations.RequestsDoNotInterfere : Prop :=
  ∀ (s s' : State) (op : Operation) (key16 : KeyContainer) (arg : Block) (blocks : List Block)
    (rest rest' : List HostEvent), s.closed = true → s'.closed = true → s.tables = s'.tables →
    keyHigh key16 = 0#6 → s.input = requestEvents op key16 arg blocks ++ rest →
    s'.input = requestEvents op key16 arg blocks ++ rest' →
      ∃ t t' emitted, core.run (requestEvents op key16 arg blocks).length s = .next t ∧
        core.run (requestEvents op key16 arg blocks).length s' = .next t' ∧
        t.outlog = s.outlog ++ emitted ∧ t'.outlog = s'.outlog ++ emitted

/-- The abstract boundary and the port agree: a request that passes the checks, carried as events, is answered
`answerRequest` (R58, R155, R166). The queue of events is log entry 3. -/
def Obligations.AbstractRequestMatchesPort : Prop :=
  ∀ (s : State) (r : Request) (es rest : List HostEvent), s.closed = true → portEvents r = some es →
    s.input = es ++ rest →
      core.run es.length s = .next { s with outlog := s.outlog ++ answerRequest s.tables r, input := rest }

/-- The order of the abstract checks, and that a failed check is answered by its code alone (R166, R170). A block or IV is
too wide as a number from `2^8` on, or as a bit string of another length than 8 (R163); one of length 8 is the block whose
cell `i` is its bit `i`. That an IV, too, may be given as a bit string, and the order of its bits, are inferences from the
spec's "The IV counts as a block" and R58 (log entry 14). -/
def Obligations.BoundaryCheckOrder : Prop :=
  ∀ (t : Tables) (r : Request),
    (2 ^ 10 ≤ r.key → answerRequest t r = [.done .cvKeyWidth]) ∧
      (∀ n, r.key < 2 ^ 10 → r.arg = .number n → 2 ^ 8 ≤ n → answerRequest t r = [.done .cvBlockWidth]) ∧
      (∀ bs, r.key < 2 ^ 10 → r.arg = .bits bs → bs.length ≠ 8 → answerRequest t r = [.done .cvBlockWidth]) ∧
      (r.key < 2 ^ 10 → r.arg.fits = true → (r.op = .enccbc ∨ r.op = .deccbc) → r.data.length % 8 ≠ 0 →
        answerRequest t r = [.done .cvBufferLength]) ∧
      (r.key < 2 ^ 10 → r.arg.fits = true → (r.op = .encb ∨ r.op = .decb) → r.data ≠ [] →
        answerRequest t r = [.done .cvBlockWidth]) ∧
      (∀ n, r.arg = .number n → n < 2 ^ 8 → r.arg.fits = true ∧ r.arg.value.toNat = n) ∧
      (∀ bs, r.arg = .bits bs → bs.length = 8 →
        r.arg.fits = true ∧ ∀ i, i < 8 → bs[i]? = some (cell r.arg.value i))

/-! ### The fine steps (R150 to R154) -/

/-- The fine steps refine the coarse step: from a valid state at most six of them reach the coarse step's state, and
where the coarse step has no transition neither has the fine one (R154). The micro-step is log entry 8. -/
def Obligations.FineStepsRefineCoarse : Prop :=
  ∀ s : State, s.valid = true →
    (∀ t, step s = .next t → ∃ n, 1 ≤ n ∧ n ≤ 6 ∧ fineRun n ⟨s, .idle⟩ = .next ⟨t, .idle⟩) ∧
      ∀ r, step s = .fault r → fineStep ⟨s, .idle⟩ = .fault r

/-- All three rows of the validity table of R26 are kept by every fine step, which always has a next state inside a
block. The micro-step is log entry 8. -/
def Obligations.FineValidityKept : Prop :=
  ∀ f : FineState, f.valid = true →
    (∀ g, fineStep f = .next g → g.valid = true) ∧ (f.micro ≠ .idle → ∃ g, fineStep f = .next g)

/-- While a rule is in progress `RESET` alone is accepted, and it abandons the block (R141, R181); the other events are
faults of the model (log entry 7). 'In progress' is the micro-step (log entry 8): with the block pending or unloaded
`PHASE` is `P_NONE`, where R141's third row does not speak and no event is taken because one event is complete before the
next is consumed (R40, item 1). -/
def Obligations.FineResetInsideBlock : Prop :=
  ∀ (f : FineState) (e : HostEvent), f.valid = true → f.micro ≠ .idle →
    (e = .reset → ∃ g, fineEvent e f = .next g ∧ g.micro = .idle ∧ g.core.closed = true ∧
        g.core.outlog = f.core.outlog ∧ g.valid = true) ∧
      (e ≠ .reset → fineEvent e f = .fault .eventInsideBlock)

/-! ### Configuration (R70 to R77, R84) -/

/-- A record passes the configuration check exactly if it is the record of a well-formed `TABLES`, and is then that
`TABLES`: its index tables are the entries, its S-boxes the rows (R70 to R77). -/
def Obligations.ConfigurationCheck : Prop :=
  ∀ (r : RawTables) (t : Tables), r.configure = some t ↔
    t.wellFormed = true ∧ r.p10 = t.entries .p10 ∧ r.p8 = t.entries .p8 ∧ r.ip = t.entries .ip ∧
      r.ipinv = t.entries .ipinv ∧ r.ep = t.entries .ep ∧ r.p4 = t.entries .p4 ∧
      r.s0 = t.s0.toList.map (fun row => row.toList.map BitVec.toNat) ∧
      r.s1 = t.s1.toList.map (fun row => row.toList.map BitVec.toNat)

/-- `TABLES_STD` as R84 lists it (PRESUMED, log entry 1) passes the check and is what the reset state holds; one entry
out of range, one repeated or one `EP` entry below 4 makes a record that no machine is built from (R70, R71, R74, R77). -/
def Obligations.StdTablesAreConfigured : Prop :=
  rawStd.configure = some State.reset.tables ∧ State.build rawStd = some State.reset ∧
    State.build { rawStd with p4 := [1, 3, 2, 4] } = none ∧
    State.build { rawStd with p10 := [2, 4, 1, 6, 3, 9, 0, 8, 7, 7] } = none ∧
    State.build { rawStd with ep := [3, 4, 5, 6, 5, 6, 7, 4] } = none
end

