-- ==== Sys2Proof/Laws/Bits.lean ====
section
/-! SUPPORT. What `cell` and `ofCells` do: a value is its cells, and the building of a value from cells is read back. -/

namespace Sys2Proof.Machine

/-- Reading a cell of a value built from cells gives that cell. -/
theorem cell_ofCells {n : Nat} (f : Fin n → Bool) (i : Fin n) : cell (ofCells f) i = f i := by
  induction n with
  | zero => exact i.elim0
  | succ n ih =>
    have ih' := fun j : Fin n => ih (fun i => f i.castSucc) j
    simp only [cell, BitVec.getMsbD, ofCells, BitVec.getLsbD_concat] at ih' ⊢
    cases i using Fin.lastCases with
    | last => simp
    | cast j =>
      have h := ih' j
      simp only [Fin.val_castSucc]
      have hj := j.isLt
      simp only [hj, decide_true, Bool.true_and] at h
      rw [← h]
      have h1 : (j : Nat) < n + 1 := by omega
      have h2 : ¬ n - (j : Nat) = 0 := by omega
      have h3 : n - (j : Nat) - 1 = n - 1 - j := by omega
      simp [h1, h2, h3]

/-- Two values with the same cells are the same value. -/
theorem eq_of_cells {n : Nat} {a b : BitVec n} (h : ∀ i : Fin n, cell a i = cell b i) : a = b := by
  apply BitVec.eq_of_getMsbD_eq
  intro i hi
  exact h ⟨i, hi⟩

/-- A cell of an exclusive or. -/
theorem cell_xor {n : Nat} (a b : BitVec n) (i : Nat) : cell (a ^^^ b) i = (cell a i ^^ cell b i) := by
  simp [cell]

/-- A cell of a run of cells. -/
theorem cell_cells {w : Nat} (v : BitVec w) (a n : Nat) (i : Fin n) : cell (cells v a n) i = cell v (a + i) :=
  cell_ofCells _ i

/-- A block is its two halves, the left one high. -/
theorem leftHalf_append_rightHalf (s : Block) : leftHalf s ++ rightHalf s = s := by
  revert s; decide

/-- The left half of a concatenation. -/
theorem leftHalf_append (a b : Half) : leftHalf (a ++ b) = a := by
  revert a b; decide

/-- The right half of a concatenation. -/
theorem rightHalf_append (a b : Half) : rightHalf (a ++ b) = b := by
  revert a b; decide

end Sys2Proof.Machine
end

