-- ==== Sys2Proof/Laws/Boundary.lean ====
section
/-! SUPPORT. What the boundary check says of a request it passes (R166), and of a block operand that fits (R163). -/

namespace Sys2Proof.Machine

/-- A number fits exactly below `2^8`. -/
@[simp] theorem BlockOperand.fits_number (n : Nat) : (BlockOperand.number n).fits = decide (n < 2 ^ 8) := rfl

/-- A bit string fits exactly at length 8. -/
@[simp] theorem BlockOperand.fits_bits (bs : List Bool) : (BlockOperand.bits bs).fits = (bs.length == 8) := rfl

/-- The value of a number. -/
@[simp] theorem BlockOperand.value_number (n : Nat) : (BlockOperand.number n).value = BitVec.ofNat 8 n := rfl

/-- A request that passes the check has met each of the four contracts. -/
theorem checkRequest_ok {r : Request} (h : checkRequest r = .ok) :
    r.key < 2 ^ 10 ∧ r.arg.fits = true ∧ (chained r.op → r.data.length % 8 = 0) ∧ (¬ chained r.op → r.data = []) := by
  unfold checkRequest at h
  split at h
  · cases h
  split at h
  · cases h
  split at h
  · cases h
  split at h
  · cases h
  · rename_i hk ha hb hs
    refine ⟨by omega, by simpa using ha, fun hc => ?_, fun hc => ?_⟩
    · by_contra hn
      exact hb ⟨hc, hn⟩
    · by_contra hn
      exact hs ⟨hc, by simpa using hn⟩

end Sys2Proof.Machine
end

