-- ==== Sys2Proof/Laws/Operands.lean ====
section
/-! SUPPORT. What the table operand of a `PERM` gives (R78): the configuration check keeps the entries it is given, and a
list out of range gives nothing. -/

namespace Sys2Proof.Machine

/-- A list in range becomes the same entries, typed. -/
theorem inRange_some {w : Nat} {l : List Nat} (h : l.all (· < w) = true) :
    ∃ ys : List (Fin w), inRange w l = some ys ∧ ys.map Fin.val = l := by
  induction l with
  | nil => exact ⟨[], rfl, rfl⟩
  | cons x xs ih =>
    simp only [List.all_cons, Bool.and_eq_true, decide_eq_true_eq] at h
    obtain ⟨ys, h1, h2⟩ := ih h.2
    exact ⟨⟨x, h.1⟩ :: ys, by simp [inRange, h.1, h1], by simp [h2]⟩

/-- One entry out of range, and the list becomes nothing. -/
theorem inRange_none {w : Nat} {l : List Nat} (h : ∃ j ∈ l, w ≤ j) : inRange w l = none := by
  induction l with
  | nil => simp at h
  | cons x xs ih =>
    obtain ⟨j, hj, hw⟩ := h
    unfold inRange
    split
    · rename_i hx
      rcases List.mem_cons.1 hj with rfl | hj
      · omega
      · rw [ih ⟨j, hj, hw⟩]
    · rfl

/-- What `inRange` answers has the entries of the list. -/
theorem inRange_entries {w : Nat} {l : List Nat} {ys : List (Fin w)} (h : inRange w l = some ys) :
    ys.map Fin.val = l := by
  by_cases ha : l.all (· < w) = true
  · obtain ⟨zs, h1, h2⟩ := inRange_some ha
    rw [h1] at h; cases h; exact h2
  · have : ∃ j ∈ l, w ≤ j := by simpa using ha
    rw [inRange_none this] at h; cases h

/-- What `toIndexTable` answers has the entries of the list. -/
theorem toIndexTable_entries {n w : Nat} {l : List Nat} {t : IndexTable n w} (h : toIndexTable n w l = some t) :
    t.toList.map Fin.val = l := by
  unfold toIndexTable at h
  split at h
  · rename_i ys hy
    split at h
    · cases h; simpa using inRange_entries hy
    · cases h
  · cases h

/-- The entries of a typed table are in range, and typing them gives it back. -/
theorem toIndexTable_toList {n w : Nat} (t : IndexTable n w) : toIndexTable n w (t.toList.map Fin.val) = some t := by
  obtain ⟨ys, h1, h2⟩ := inRange_some (w := w) (l := t.toList.map Fin.val) (by simp)
  obtain rfl : ys = t.toList := List.map_injective_iff.2 Fin.val_injective h2
  simp only [toIndexTable, h1]
  rw [dif_pos (by simp)]
  rfl

/-- `PERM` over a list in range has the selected cells. -/
theorem permList_some {w : Nat} {l : List Nat} (v : BitVec w) (h : l.all (· < w) = true) :
    ∃ y, permList l v = some y ∧ ∀ i j : Nat, l[i]? = some j → cell y i = cell v j := by
  obtain ⟨ys, h1, h2⟩ := inRange_some h
  have hl : ys.length = l.length := by rw [← h2]; simp
  have ht : toIndexTable l.length w l = some ⟨ys.toArray, by simpa using hl⟩ := by simp [toIndexTable, h1, hl]
  refine ⟨perm ⟨ys.toArray, by simpa using hl⟩ v, by simp only [permList, ht], ?_⟩
  intro i j hij
  have hi : i < l.length := by
    by_contra hn
    rw [List.getElem?_eq_none (by omega)] at hij
    cases hij
  have e : cell (perm (⟨ys.toArray, by simpa using hl⟩ : IndexTable l.length w) v) i = cell v (ys[i]'(by omega)).val :=
    cell_ofCells _ ⟨i, hi⟩
  rw [e]
  have e2 : l[i]? = (ys[i]?).map Fin.val := by rw [← h2]; simp
  rw [hij, List.getElem?_eq_getElem (by omega)] at e2
  congr 1
  simpa using e2.symm

/-- `PERM` over a list with an entry out of range gives nothing. -/
theorem permList_none {w : Nat} {l : List Nat} (v : BitVec w) (h : ∃ j ∈ l, w ≤ j) : permList l v = none := by
  simp [permList, toIndexTable, inRange_none h]

end Sys2Proof.Machine
end

