-- ==== Sys2Proof/Laws/State.lean ====
section
/-! SUPPORT. One lemma per field per named update of the state: what the update leaves in that field. -/

namespace Sys2Proof.Machine

/-! #### `emit` -/

@[simp] theorem emit_mode (e : OutEvent) (s : State) : (emit e s).mode = s.mode := rfl
@[simp] theorem emit_phase (e : OutEvent) (s : State) : (emit e s).phase = s.phase := rfl
@[simp] theorem emit_op (e : OutEvent) (s : State) : (emit e s).op = s.op := rfl
@[simp] theorem emit_k1 (e : OutEvent) (s : State) : (emit e s).k1 = s.k1 := rfl
@[simp] theorem emit_k2 (e : OutEvent) (s : State) : (emit e s).k2 = s.k2 := rfl
@[simp] theorem emit_roundS (e : OutEvent) (s : State) : (emit e s).roundS = s.roundS := rfl
@[simp] theorem emit_fb (e : OutEvent) (s : State) : (emit e s).fb = s.fb := rfl
@[simp] theorem emit_idx (e : OutEvent) (s : State) : (emit e s).idx = s.idx := rfl
@[simp] theorem emit_outlog (e : OutEvent) (s : State) : (emit e s).outlog = s.outlog ++ [e] := rfl
@[simp] theorem emit_tables (e : OutEvent) (s : State) : (emit e s).tables = s.tables := rfl
@[simp] theorem emit_input (e : OutEvent) (s : State) : (emit e s).input = s.input := rfl
@[simp] theorem emit_result (e : OutEvent) (s : State) : (emit e s).result = s.result := rfl

/-! #### `raiseViolation` -/

@[simp] theorem raiseViolation_mode (st : Status) (s : State) : (raiseViolation st s).mode = .idle := rfl
@[simp] theorem raiseViolation_phase (st : Status) (s : State) : (raiseViolation st s).phase = s.phase := rfl
@[simp] theorem raiseViolation_op (st : Status) (s : State) : (raiseViolation st s).op = s.op := rfl
@[simp] theorem raiseViolation_k1 (st : Status) (s : State) : (raiseViolation st s).k1 = s.k1 := rfl
@[simp] theorem raiseViolation_k2 (st : Status) (s : State) : (raiseViolation st s).k2 = s.k2 := rfl
@[simp] theorem raiseViolation_roundS (st : Status) (s : State) : (raiseViolation st s).roundS = s.roundS := rfl
@[simp] theorem raiseViolation_fb (st : Status) (s : State) : (raiseViolation st s).fb = s.fb := rfl
@[simp] theorem raiseViolation_idx (st : Status) (s : State) : (raiseViolation st s).idx = s.idx := rfl
@[simp] theorem raiseViolation_outlog (st : Status) (s : State) :
    (raiseViolation st s).outlog = s.outlog ++ [.done st] := rfl
@[simp] theorem raiseViolation_tables (st : Status) (s : State) : (raiseViolation st s).tables = s.tables := rfl
@[simp] theorem raiseViolation_input (st : Status) (s : State) : (raiseViolation st s).input = s.input := rfl
@[simp] theorem raiseViolation_result (st : Status) (s : State) : (raiseViolation st s).result = s.result := rfl

/-! #### `latchHeader` -/

@[simp] theorem latchHeader_mode (op : OpCode) (key : Key) (s : State) : (latchHeader op key s).mode = s.mode := rfl
@[simp] theorem latchHeader_phase (op : OpCode) (key : Key) (s : State) :
    (latchHeader op key s).phase = s.phase := rfl
@[simp] theorem latchHeader_op (op : OpCode) (key : Key) (s : State) : (latchHeader op key s).op = some op := rfl
@[simp] theorem latchHeader_k1 (op : OpCode) (key : Key) (s : State) :
    (latchHeader op key s).k1 = some (ks s.tables key).1 := rfl
@[simp] theorem latchHeader_k2 (op : OpCode) (key : Key) (s : State) :
    (latchHeader op key s).k2 = some (ks s.tables key).2 := rfl
@[simp] theorem latchHeader_roundS (op : OpCode) (key : Key) (s : State) :
    (latchHeader op key s).roundS = s.roundS := rfl
@[simp] theorem latchHeader_fb (op : OpCode) (key : Key) (s : State) : (latchHeader op key s).fb = s.fb := rfl
@[simp] theorem latchHeader_idx (op : OpCode) (key : Key) (s : State) : (latchHeader op key s).idx = s.idx := rfl
@[simp] theorem latchHeader_outlog (op : OpCode) (key : Key) (s : State) :
    (latchHeader op key s).outlog = s.outlog := rfl
@[simp] theorem latchHeader_tables (op : OpCode) (key : Key) (s : State) :
    (latchHeader op key s).tables = s.tables := rfl
@[simp] theorem latchHeader_input (op : OpCode) (key : Key) (s : State) :
    (latchHeader op key s).input = s.input := rfl
@[simp] theorem latchHeader_result (op : OpCode) (key : Key) (s : State) :
    (latchHeader op key s).result = s.result := rfl

/-! #### `openChain` -/

@[simp] theorem openChain_mode (iv : Block) (s : State) : (openChain iv s).mode = .cbc := rfl
@[simp] theorem openChain_phase (iv : Block) (s : State) : (openChain iv s).phase = s.phase := rfl
@[simp] theorem openChain_op (iv : Block) (s : State) : (openChain iv s).op = s.op := rfl
@[simp] theorem openChain_k1 (iv : Block) (s : State) : (openChain iv s).k1 = s.k1 := rfl
@[simp] theorem openChain_k2 (iv : Block) (s : State) : (openChain iv s).k2 = s.k2 := rfl
@[simp] theorem openChain_roundS (iv : Block) (s : State) : (openChain iv s).roundS = s.roundS := rfl
@[simp] theorem openChain_fb (iv : Block) (s : State) : (openChain iv s).fb = some iv := rfl
@[simp] theorem openChain_idx (iv : Block) (s : State) : (openChain iv s).idx = 0 := rfl
@[simp] theorem openChain_outlog (iv : Block) (s : State) : (openChain iv s).outlog = s.outlog := rfl
@[simp] theorem openChain_tables (iv : Block) (s : State) : (openChain iv s).tables = s.tables := rfl
@[simp] theorem openChain_input (iv : Block) (s : State) : (openChain iv s).input = s.input := rfl
@[simp] theorem openChain_result (iv : Block) (s : State) : (openChain iv s).result = s.result := rfl

/-! #### `leaveCipher` -/

@[simp] theorem leaveCipher_mode (s : State) : (leaveCipher s).mode = s.mode := rfl
@[simp] theorem leaveCipher_phase (s : State) : (leaveCipher s).phase = .none := rfl
@[simp] theorem leaveCipher_op (s : State) : (leaveCipher s).op = s.op := rfl
@[simp] theorem leaveCipher_k1 (s : State) : (leaveCipher s).k1 = s.k1 := rfl
@[simp] theorem leaveCipher_k2 (s : State) : (leaveCipher s).k2 = s.k2 := rfl
@[simp] theorem leaveCipher_roundS (s : State) : (leaveCipher s).roundS = none := rfl
@[simp] theorem leaveCipher_fb (s : State) : (leaveCipher s).fb = s.fb := rfl
@[simp] theorem leaveCipher_idx (s : State) : (leaveCipher s).idx = s.idx := rfl
@[simp] theorem leaveCipher_outlog (s : State) : (leaveCipher s).outlog = s.outlog := rfl
@[simp] theorem leaveCipher_tables (s : State) : (leaveCipher s).tables = s.tables := rfl
@[simp] theorem leaveCipher_input (s : State) : (leaveCipher s).input = s.input := rfl
@[simp] theorem leaveCipher_result (s : State) : (leaveCipher s).result = s.result := rfl

/-! #### `answerSingle` -/

@[simp] theorem answerSingle_mode (y : Block) (s : State) : (answerSingle y s).mode = s.mode := rfl
@[simp] theorem answerSingle_phase (y : Block) (s : State) : (answerSingle y s).phase = s.phase := rfl
@[simp] theorem answerSingle_op (y : Block) (s : State) : (answerSingle y s).op = none := rfl
@[simp] theorem answerSingle_k1 (y : Block) (s : State) : (answerSingle y s).k1 = none := rfl
@[simp] theorem answerSingle_k2 (y : Block) (s : State) : (answerSingle y s).k2 = none := rfl
@[simp] theorem answerSingle_roundS (y : Block) (s : State) : (answerSingle y s).roundS = none := rfl
@[simp] theorem answerSingle_fb (y : Block) (s : State) : (answerSingle y s).fb = s.fb := rfl
@[simp] theorem answerSingle_idx (y : Block) (s : State) : (answerSingle y s).idx = s.idx := rfl
@[simp] theorem answerSingle_outlog (y : Block) (s : State) :
    (answerSingle y s).outlog = s.outlog ++ [.out y] ++ [.done .ok] := rfl
@[simp] theorem answerSingle_tables (y : Block) (s : State) : (answerSingle y s).tables = s.tables := rfl
@[simp] theorem answerSingle_input (y : Block) (s : State) : (answerSingle y s).input = s.input := rfl
@[simp] theorem answerSingle_result (y : Block) (s : State) : (answerSingle y s).result = s.result := rfl

/-! #### `closeChain` -/

@[simp] theorem closeChain_mode (s : State) : (closeChain s).mode = .idle := rfl
@[simp] theorem closeChain_phase (s : State) : (closeChain s).phase = s.phase := rfl
@[simp] theorem closeChain_op (s : State) : (closeChain s).op = none := rfl
@[simp] theorem closeChain_k1 (s : State) : (closeChain s).k1 = none := rfl
@[simp] theorem closeChain_k2 (s : State) : (closeChain s).k2 = none := rfl
@[simp] theorem closeChain_roundS (s : State) : (closeChain s).roundS = none := rfl
@[simp] theorem closeChain_fb (s : State) : (closeChain s).fb = none := rfl
@[simp] theorem closeChain_idx (s : State) : (closeChain s).idx = 0 := rfl
@[simp] theorem closeChain_outlog (s : State) : (closeChain s).outlog = s.outlog ++ [.done .ok] := rfl
@[simp] theorem closeChain_tables (s : State) : (closeChain s).tables = s.tables := rfl
@[simp] theorem closeChain_input (s : State) : (closeChain s).input = s.input := rfl
@[simp] theorem closeChain_result (s : State) : (closeChain s).result = s.result := rfl

/-! #### `chainOn` -/

@[simp] theorem chainOn_mode (c : Block) (s : State) : (chainOn c s).mode = s.mode := rfl
@[simp] theorem chainOn_phase (c : Block) (s : State) : (chainOn c s).phase = s.phase := rfl
@[simp] theorem chainOn_op (c : Block) (s : State) : (chainOn c s).op = s.op := rfl
@[simp] theorem chainOn_k1 (c : Block) (s : State) : (chainOn c s).k1 = s.k1 := rfl
@[simp] theorem chainOn_k2 (c : Block) (s : State) : (chainOn c s).k2 = s.k2 := rfl
@[simp] theorem chainOn_roundS (c : Block) (s : State) : (chainOn c s).roundS = s.roundS := rfl
@[simp] theorem chainOn_fb (c : Block) (s : State) : (chainOn c s).fb = some c := rfl
@[simp] theorem chainOn_idx (c : Block) (s : State) : (chainOn c s).idx = s.idx + 1 := rfl
@[simp] theorem chainOn_outlog (c : Block) (s : State) : (chainOn c s).outlog = s.outlog := rfl
@[simp] theorem chainOn_tables (c : Block) (s : State) : (chainOn c s).tables = s.tables := rfl
@[simp] theorem chainOn_input (c : Block) (s : State) : (chainOn c s).input = s.input := rfl
@[simp] theorem chainOn_result (c : Block) (s : State) : (chainOn c s).result = s.result := rfl

/-! #### `resetState` -/

@[simp] theorem resetState_mode (s : State) : (resetState s).mode = .idle := rfl
@[simp] theorem resetState_phase (s : State) : (resetState s).phase = .none := rfl
@[simp] theorem resetState_op (s : State) : (resetState s).op = none := rfl
@[simp] theorem resetState_k1 (s : State) : (resetState s).k1 = none := rfl
@[simp] theorem resetState_k2 (s : State) : (resetState s).k2 = none := rfl
@[simp] theorem resetState_roundS (s : State) : (resetState s).roundS = none := rfl
@[simp] theorem resetState_fb (s : State) : (resetState s).fb = none := rfl
@[simp] theorem resetState_idx (s : State) : (resetState s).idx = 0 := rfl
@[simp] theorem resetState_outlog (s : State) : (resetState s).outlog = s.outlog := rfl
@[simp] theorem resetState_tables (s : State) : (resetState s).tables = s.tables := rfl
@[simp] theorem resetState_input (s : State) : (resetState s).input = s.input := rfl
@[simp] theorem resetState_result (s : State) : (resetState s).result = none := rfl

/-! #### `returnValue` -/

@[simp] theorem returnValue_mode (r : OpResult) (s : State) : (returnValue r s).mode = s.mode := rfl
@[simp] theorem returnValue_phase (r : OpResult) (s : State) : (returnValue r s).phase = s.phase := rfl
@[simp] theorem returnValue_op (r : OpResult) (s : State) : (returnValue r s).op = s.op := rfl
@[simp] theorem returnValue_k1 (r : OpResult) (s : State) : (returnValue r s).k1 = s.k1 := rfl
@[simp] theorem returnValue_k2 (r : OpResult) (s : State) : (returnValue r s).k2 = s.k2 := rfl
@[simp] theorem returnValue_roundS (r : OpResult) (s : State) : (returnValue r s).roundS = s.roundS := rfl
@[simp] theorem returnValue_fb (r : OpResult) (s : State) : (returnValue r s).fb = s.fb := rfl
@[simp] theorem returnValue_idx (r : OpResult) (s : State) : (returnValue r s).idx = s.idx := rfl
@[simp] theorem returnValue_outlog (r : OpResult) (s : State) : (returnValue r s).outlog = s.outlog := rfl
@[simp] theorem returnValue_tables (r : OpResult) (s : State) : (returnValue r s).tables = s.tables := rfl
@[simp] theorem returnValue_input (r : OpResult) (s : State) : (returnValue r s).input = s.input := rfl
@[simp] theorem returnValue_result (r : OpResult) (s : State) : (returnValue r s).result = some r := rfl

/-! #### Power-up -/

@[simp] theorem reset_input : State.reset.input = [] := rfl
@[simp] theorem reset_outlog : State.reset.outlog = [] := rfl
@[simp] theorem reset_tables : State.reset.tables = tablesStd := rfl
@[simp] theorem powerUp_tables (t : Tables) : (State.powerUp t).tables = t := rfl
@[simp] theorem powerUp_input (t : Tables) : (State.powerUp t).input = [] := rfl
@[simp] theorem powerUp_outlog (t : Tables) : (State.powerUp t).outlog = [] := rfl

end Sys2Proof.Machine
end

