-- ==== Sys2Proof/Laws/Ops.lean ====
section
/-! SUPPORT. For each shared operation, once, everything it can do when it answers a next state; and when the accepting
operations go on to what they guard. -/

namespace Sys2Proof.Machine

/-- A register read that answers has read a value. -/
theorem readReg_next {α σ : Type} {name : RegName} {r : Option α} {use : α → Host.Outcome σ Fault Refusal} {t : σ}
    (h : readReg name r use = .next t) : ∃ v, r = some v ∧ use v = .next t := by
  cases r with
  | none => simp [readReg] at h
  | some v => exact ⟨v, rfl, h⟩

/-- A read of the subkey pair that answers has read both. -/
theorem readSubkeys_next {σ : Type} {s : State} {use : Subkey → Subkey → Host.Outcome σ Fault Refusal} {t : σ}
    (h : readSubkeys s use = .next t) : ∃ a b, s.k1 = some a ∧ s.k2 = some b ∧ use a b = .next t := by
  obtain ⟨a, ha, h⟩ := readReg_next h
  obtain ⟨b, hb, h⟩ := readReg_next h
  exact ⟨a, b, ha, hb, h⟩

/-- A header that answers was taken with no request open: either its key was too wide and the violation step ran, or its
key went on. -/
theorem acceptHeader_next {σ : Type} {key16 : KeyContainer} {s : State} {violated : State → σ}
    {accepted : Key → Host.Outcome σ Fault Refusal} {t : σ} (h : acceptHeader key16 s violated accepted = .next t) :
    s.phase = .none ∧ s.mode = .idle ∧
      ((keyTooWide key16 = true ∧ t = violated (raiseViolation .cvKeyWidth s)) ∨
        (keyTooWide key16 = false ∧ accepted (keyLow key16) = .next t)) := by
  unfold acceptHeader at h
  split at h
  · cases h
  split at h
  · cases h
  rename_i hp hm
  refine ⟨by simpa using hp, by cases hs : s.mode <;> simp_all, ?_⟩
  split at h
  · rename_i hk; cases h; exact .inl ⟨hk, rfl⟩
  · rename_i hk; exact .inr ⟨by simpa using hk, h⟩

/-- With no request open and a 10-bit key a header goes on to what it guards. -/
theorem acceptHeader_accepts {σ : Type} {key16 : KeyContainer} {s : State} (violated : State → σ)
    (accepted : Key → Host.Outcome σ Fault Refusal) (hm : s.mode = .idle) (hp : s.phase = .none)
    (hk : keyTooWide key16 = false) : acceptHeader key16 s violated accepted = accepted (keyLow key16) := by
  simp [acceptHeader, hm, hp, hk]

/-- With no request open and a key wider than 10 bits a header is the violation step. -/
theorem acceptHeader_violates {σ : Type} {key16 : KeyContainer} {s : State} (violated : State → σ)
    (accepted : Key → Host.Outcome σ Fault Refusal) (hm : s.mode = .idle) (hp : s.phase = .none)
    (hk : keyTooWide key16 = true) :
    acceptHeader key16 s violated accepted = .next (violated (raiseViolation .cvKeyWidth s)) := by
  simp [acceptHeader, hm, hp, hk]

/-- A `DAT` or `END` that answers was taken inside an open request. -/
theorem acceptInRequest_next {σ : Type} {whyNot : Fault} {s : State} {accepted : Host.Outcome σ Fault Refusal} {t : σ}
    (h : acceptInRequest whyNot s accepted = .next t) : s.phase = .none ∧ s.mode = .cbc ∧ accepted = .next t := by
  unfold acceptInRequest at h
  split at h
  · cases h
  split at h
  · cases h
  rename_i hp hm
  exact ⟨by simpa using hp, by cases hs : s.mode <;> simp_all, h⟩

/-- Inside an open request, between blocks, `DAT` and `END` go on to what they guard. -/
theorem acceptInRequest_accepts {σ : Type} (whyNot : Fault) {s : State} (accepted : Host.Outcome σ Fault Refusal)
    (hm : s.mode = .cbc) (hp : s.phase = .none) : acceptInRequest whyNot s accepted = accepted := by
  simp [acceptInRequest, hm, hp]

/-- `ENC` over the registers hands on the enciphered block and leaves `S` and `PHASE` at rest. -/
theorem encOp_next {σ : Type} {b : Block} {s : State} {use : Block → State → Host.Outcome σ Fault Refusal} {t : σ}
    (h : encOp b s use = .next t) :
    ∃ k1 k2, s.k1 = some k1 ∧ s.k2 = some k2 ∧ use (enc s.tables b k1 k2) (leaveCipher s) = .next t :=
  readSubkeys_next h

/-- `DEC` over the registers hands on the deciphered block and leaves `S` and `PHASE` at rest. -/
theorem decOp_next {σ : Type} {b : Block} {s : State} {use : Block → State → Host.Outcome σ Fault Refusal} {t : σ}
    (h : decOp b s use = .next t) :
    ∃ k1 k2, s.k1 = some k1 ∧ s.k2 = some k2 ∧ use (dec s.tables b k1 k2) (leaveCipher s) = .next t :=
  readSubkeys_next h

/-- One block of CBC encryption hands on the ciphertext block, which is also the new feedback. -/
theorem cbceBlockOp_next {σ : Type} {p : Block} {s : State} {use : Block → State → Host.Outcome σ Fault Refusal} {t : σ}
    (h : cbceBlockOp p s use = .next t) :
    ∃ fb k1 k2, s.fb = some fb ∧ s.k1 = some k1 ∧ s.k2 = some k2 ∧
      use (enc s.tables (p ^^^ fb) k1 k2) (chainOn (enc s.tables (p ^^^ fb) k1 k2) (leaveCipher s)) = .next t := by
  obtain ⟨fb, hfb, h⟩ := readReg_next h
  obtain ⟨k1, k2, h1, h2, h⟩ := encOp_next h
  exact ⟨fb, k1, k2, hfb, h1, h2, h⟩

/-- One block of CBC decryption hands on the plaintext block; the new feedback is the input block. -/
theorem cbcdBlockOp_next {σ : Type} {c : Block} {s : State} {use : Block → State → Host.Outcome σ Fault Refusal} {t : σ}
    (h : cbcdBlockOp c s use = .next t) :
    ∃ fb k1 k2, s.fb = some fb ∧ s.k1 = some k1 ∧ s.k2 = some k2 ∧
      use (dec s.tables c k1 k2 ^^^ fb) (chainOn c (leaveCipher s)) = .next t := by
  obtain ⟨k1, k2, h1, h2, h⟩ := decOp_next h
  obtain ⟨fb, hfb, h⟩ := readReg_next h
  exact ⟨fb, k1, k2, hfb, h1, h2, h⟩

/-- A step either waits, the host having issued nothing, or runs the instruction of the next event. -/
theorem step_next {s t : State} (h : step s = .next t) :
    (s.input = [] ∧ t = s) ∨
      ∃ e rest, s.input = e :: rest ∧ exec (decodeEvent e) { s with input := rest } = .next t := by
  unfold step at h
  split at h
  · rename_i hs; cases h; exact .inl ⟨hs, rfl⟩
  · rename_i e rest hs; exact .inr ⟨e, rest, hs, h⟩

end Sys2Proof.Machine
end

