-- ==== Sys2Proof/Laws/PerInstr.lean ====
section
/-! SUPPORT. The family `EncodedFields`: where each instruction's operands stand in its event, or that it has none. -/

namespace Sys2Proof.Laws.EncodedFields

/-- The fields of an instruction's encoding: a header's `OP`, `ARG` and `KEY16` read back from its word (R51), the
payload of a `DAT`, no payload of `END` and `RESET` (R46), no event at all for an internal operation (R55). -/
def Statement (i : Instr) : Prop :=
  match i with
  | .encb key16 block =>
    ∃ h, encode i = some (.hdr h) ∧ headerOp h = 0#2 ∧ headerArg h = block ∧ headerKey16 h = key16
  | .decb key16 block =>
    ∃ h, encode i = some (.hdr h) ∧ headerOp h = 1#2 ∧ headerArg h = block ∧ headerKey16 h = key16
  | .enccbc key16 iv =>
    ∃ h, encode i = some (.hdr h) ∧ headerOp h = 2#2 ∧ headerArg h = iv ∧ headerKey16 h = key16
  | .deccbc key16 iv =>
    ∃ h, encode i = some (.hdr h) ∧ headerOp h = 3#2 ∧ headerArg h = iv ∧ headerKey16 h = key16
  | .dat b => encode i = some (.dat b)
  | .endReq => encode i = some .endReq
  | .reset => encode i = some .reset
  | .perm _ _ _ => encode i = none
  | .rol5 _ _ => encode i = none
  | .ks _ => encode i = none
  | .sbox _ _ => encode i = none
  | .f _ _ => encode i = none
  | .fk _ _ => encode i = none
  | .sw _ => encode i = none
  | .crypt _ _ _ => encode i = none
  | .enc _ => encode i = none
  | .dec _ => encode i = none
  | .cbceBlock _ => encode i = none
  | .cbcdBlock _ => encode i = none

/-- The three fields of a header word stand apart (R51). -/
theorem encodeHeader_fields (op : OpCode) (arg : Block) (key16 : KeyContainer) :
    headerOp (encodeHeader op arg key16) = op ∧ headerArg (encodeHeader op arg key16) = arg ∧
      headerKey16 (encodeHeader op arg key16) = key16 := by
  unfold headerOp headerArg headerKey16 encodeHeader
  refine ⟨?_, ?_, ?_⟩ <;>
  · apply BitVec.eq_of_getLsbD_eq
    intro i hi
    simp only [BitVec.getLsbD_extractLsb', BitVec.getLsbD_append, hi, decide_true, Bool.true_and]
    repeat' split
    all_goals first
      | omega
      | (congr 1; omega)

theorem encb (key16 : KeyContainer) (block : Block) : Statement (.encb key16 block) :=
  ⟨_, rfl, encodeHeader_fields 0#2 block key16⟩
theorem decb (key16 : KeyContainer) (block : Block) : Statement (.decb key16 block) :=
  ⟨_, rfl, encodeHeader_fields 1#2 block key16⟩
theorem enccbc (key16 : KeyContainer) (iv : Block) : Statement (.enccbc key16 iv) :=
  ⟨_, rfl, encodeHeader_fields 2#2 iv key16⟩
theorem deccbc (key16 : KeyContainer) (iv : Block) : Statement (.deccbc key16 iv) :=
  ⟨_, rfl, encodeHeader_fields 3#2 iv key16⟩
theorem dat (b : Block) : Statement (.dat b) := rfl
theorem endReq : Statement .endReq := rfl
theorem reset : Statement .reset := rfl
theorem perm (t : TableRef) (w : Nat) (v : BitVec w) : Statement (.perm t w v) := rfl
theorem rol5 (h : KeyHalf) (k : RotAmount) : Statement (.rol5 h k) := rfl
theorem ks (key : Key) : Statement (.ks key) := rfl
theorem sbox (box : SBoxName) (n : BitVec 4) : Statement (.sbox box n) := rfl
theorem f (s : Block) (k : Subkey) : Statement (.f s k) := rfl
theorem fk (s : Block) (k : Subkey) : Statement (.fk s k) := rfl
theorem sw (s : Block) : Statement (.sw s) := rfl
theorem crypt (b : Block) (ka kb : Subkey) : Statement (.crypt b ka kb) := rfl
theorem enc (b : Block) : Statement (.enc b) := rfl
theorem dec (b : Block) : Statement (.dec b) := rfl
theorem cbceBlock (p : Block) : Statement (.cbceBlock p) := rfl
theorem cbcdBlock (c : Block) : Statement (.cbcdBlock c) := rfl

end Sys2Proof.Laws.EncodedFields
end

