-- ==== Sys2Proof/Laws/Run.lean ====
section
/-! SUPPORT. Runs, composed from steps: of any machine behind the host's interface, then of this one. -/

namespace Sys2Proof.Machine

/-- A step, then the rest of the run, of any machine. -/
theorem coreRun_succ (M : Host.Core) {k : Nat} {s t : M.State} (h : M.step s = .next t) :
    M.run (k + 1) s = M.run k t := by
  rw [Host.Core.run, h]

/-- A run, then the rest of it, of any machine. -/
theorem coreRun_add (M : Host.Core) {a b : Nat} {s t : M.State} (h : M.run a s = .next t) :
    M.run (a + b) s = M.run b t := by
  induction a generalizing s with
  | zero => rw [Host.Core.run] at h; cases h; rw [Nat.zero_add]
  | succ a ih =>
    rw [Nat.succ_add]
    rw [Host.Core.run] at h ⊢
    split at h
    · exact ih h
    · cases h
    · cases h

/-- A run of no steps. -/
theorem run_zero (s : State) : core.run 0 s = .next s := rfl

/-- A step, then the rest of the run. -/
theorem run_succ {k : Nat} {s t : State} (h : step s = .next t) : core.run (k + 1) s = core.run k t :=
  coreRun_succ core h

/-- A run of one step. -/
theorem run_one {s t : State} (h : step s = .next t) : core.run 1 s = .next t := run_succ h

/-- A run, then the rest of it. -/
theorem run_add {a b : Nat} {s t : State} (h : core.run a s = .next t) : core.run (a + b) s = core.run b t :=
  coreRun_add core h

end Sys2Proof.Machine
end

