-- ==== Sys2Proof/Tests/Slice0.lean ====
section
/-! SUPPORT. Tests of one step each, their expected results from spec/95_test_vectors.md (the section is named in each
comment), and a witness for each statement with hypotheses: a concrete state and operands that meet all of them. -/

open Sys2Proof Sys2Proof.Machine

namespace Sys2Proof.Tests

/-! ### Helpers -/

/-- The next state of an outcome. -/
def nextOf {σ : Type} : Host.Outcome σ Fault Refusal → Option σ
  | .next s => some s
  | .fault _ => none
  | .refused _ => none

/-- The fault of an outcome. -/
def faultOf {σ : Type} : Host.Outcome σ Fault Refusal → Option Fault
  | .next _ => none
  | .fault r => some r
  | .refused _ => none

/-- The refusal of an outcome. -/
def refusalOf {σ : Type} : Host.Outcome σ Fault Refusal → Option Refusal
  | .next _ => none
  | .fault _ => none
  | .refused r => some r

/-- An instruction's next state from the reset state. -/
def fromReset (i : Instr) : Option State := nextOf (exec i State.reset)

/-- The registers of the spec, as P1 to P7 write a state. -/
structure Regs where
  mode   : Mode
  phase  : Phase
  op     : Option OpCode
  k1     : Option Subkey
  k2     : Option Subkey
  roundS : Option Block
  fb     : Option Block
  idx    : Nat
  deriving DecidableEq, Repr

/-- The registers of a state. -/
def regs (s : State) : Regs := ⟨s.mode, s.phase, s.op, s.k1, s.k2, s.roundS, s.fb, s.idx⟩

/-- A CBC request open under key 0x282 (P2, steps 1 and 8): `K1 = 0xA4`, `K2 = 0x43`. -/
def openState (op : OpCode) (fb : Block) : State :=
  { State.reset with mode := .cbc, op := some op, k1 := some 0xA4#8, k2 := some 0x43#8, fb := some fb }

/-- A state inside a block, which no coarse step leaves. -/
def insideState : State := { openState 2#2 0x5A#8 with phase := .r1, roundS := some 0xA9#8 }

/-- `TABLES_ALT` (section 11). -/
def tablesAlt : Tables where
  p10   := #v[0, 1, 2, 3, 4, 5, 6, 7, 8, 9]
  p8    := #v[0, 1, 2, 3, 5, 6, 7, 8]
  ip    := #v[0, 1, 2, 3, 4, 5, 6, 7]
  ipinv := #v[0, 1, 2, 3, 4, 5, 6, 7]
  ep    := #v[4, 5, 6, 7, 4, 5, 6, 7]
  p4    := #v[0, 1, 2, 3]
  s0    := #v[#v[0, 0, 0, 0], #v[1, 1, 1, 1], #v[2, 2, 2, 2], #v[3, 3, 3, 3]]
  s1    := #v[#v[0, 1, 2, 3], #v[0, 1, 2, 3], #v[0, 1, 2, 3], #v[0, 1, 2, 3]]

/-! ### Well-formedness (R78): the check refuses each ill-formed term -/

theorem test_wf_named_table_fits : (Instr.perm (.named .p8) 10 0#10).wellFormed = true := by decide
theorem test_wf_refuses_named_table_wider_than_source : (Instr.perm (.named .p8) 9 0#9).wellFormed = false := by decide
theorem test_wf_inline_table_fits : (Instr.perm (.inline [2, 0, 1]) 3 0#3).wellFormed = true := by decide
theorem test_wf_refuses_inline_entry_out_of_range : (Instr.perm (.inline [2, 0, 3]) 3 0#3).wellFormed = false := by
  decide

/-! ### Decoding, each word written out from sections 10.1 and 10.2 (`OP ARG KEY16`) -/

theorem test_decode_encb :
    decodeTableWord 32 0b00011100100000001010000010 = some (.encb 0x0282#16 0x72#8) := by decide
theorem test_decode_decb :
    decodeTableWord 32 0b01100000010000001010000010 = some (.decb 0x0282#16 0x81#8) := by decide
theorem test_decode_enccbc :
    decodeTableWord 32 0b10101010100000000111111101 = some (.enccbc 0x01FD#16 0xAA#8) := by decide
theorem test_decode_deccbc :
    decodeTableWord 26 0b11101010100000000111111101 = some (.deccbc 0x01FD#16 0xAA#8) := by decide
theorem test_decode_dat : decodeTableWord 8 0b01001000 = some (.dat 0x48#8) := by decide
theorem test_decode_largest_header_is_deccbc : decodeTableWord 26 0x3FFFFFF = some (.deccbc 0xFFFF#16 0xFF#8) := by
  decide
theorem test_decode_refuses_bit_above_header : decodeTableWord 32 0x4000000 = none := by decide
theorem test_decode_refuses_bit_above_data : decodeTableWord 8 0x100 = none := by decide
theorem test_decode_refuses_other_widths : decodeTableWord 16 0x48 = none := by decide
theorem test_encode_enccbc : encode (.enccbc 0x0282#16 0x5A#8) = some (.hdr 0x25A0282#26) := by decide
theorem test_encode_internal_has_no_word : encode (.ks 0x282#10) = none := by decide
theorem test_classify_smallest_wide_key : classifyHeader 0x0720400#26 = .error .cvKeyWidth := by rfl
theorem test_classify_largest_valid_key : classifyHeader 0x0FF03FF#26 = .ok (.encb, 0x3FF#10, 0xFF#8) := by rfl

/-! ### The commands -/

/-- 6.1, and 10.3: the answer and the registers after it. -/
theorem test_encb :
    (fromReset (.encb 0x282#16 0x72#8)).map (fun s => (s.outlog, regs s)) =
      some ([.out 0x81#8, .done .ok], regs State.reset) := by decide +kernel

/-- Section 11: the tables are a parameter. -/
theorem test_encb_other_tables :
    (nextOf (exec (.encb 0x282#16 0x72#8) (State.powerUp tablesAlt))).map State.outlog =
      some [.out 0x13#8, .done .ok] := by decide +kernel

/-- P1, step 2 (with the subkeys in encrypt order it would be 0x4E, section 8). -/
theorem test_decb : (fromReset (.decb 0x282#16 0x81#8)).map State.outlog = some [.out 0x72#8, .done .ok] := by
  decide +kernel

/-- 10.3: a wide key with good low bits gives no ciphertext. -/
theorem test_decb_wide_key : (fromReset (.decb 0x0400#16 0x00#8)).map State.outlog = some [.done .cvKeyWidth] := by
  decide +kernel

/-- P2, step 1. -/
theorem test_enccbc :
    (fromReset (.enccbc 0x282#16 0x5A#8)).map (fun s => (s.outlog, regs s)) =
      some ([], ⟨.cbc, .none, some 2#2, some 0xA4#8, some 0x43#8, none, some 0x5A#8, 0⟩) := by decide +kernel

/-- P2, step 8. -/
theorem test_deccbc :
    (fromReset (.deccbc 0x282#16 0x5A#8)).map (fun s => (s.outlog, regs s)) =
      some ([], ⟨.cbc, .none, some 3#2, some 0xA4#8, some 0x43#8, none, some 0x5A#8, 0⟩) := by decide +kernel

/-- P3, step 5: the mode stays `IDLE`. -/
theorem test_deccbc_wide_key :
    (fromReset (.deccbc 0x8000#16 0xFF#8)).map (fun s => (s.outlog, s.mode)) = some ([.done .cvKeyWidth], .idle) := by
  decide +kernel

/-- P2, step 2. -/
theorem test_dat_encrypts :
    (nextOf (exec (.dat 0x48#8) (openState 2#2 0x5A#8))).map (fun s => (s.outlog, s.fb, s.idx)) =
      some ([.out 0x59#8], some 0x59#8, 1) := by decide +kernel

/-- P2, step 9: the feedback is the ciphertext just consumed. -/
theorem test_dat_decrypts :
    (nextOf (exec (.dat 0x59#8) (openState 3#2 0x5A#8))).map (fun s => (s.outlog, s.fb, s.idx)) =
      some ([.out 0x48#8], some 0x59#8, 1) := by decide +kernel

/-- P2, step 7. -/
theorem test_end :
    (nextOf (exec .endReq (openState 2#2 0xD3#8))).map (fun s => (s.outlog, regs s)) =
      some ([.done .ok], regs State.reset) := by decide

/-- 10.3: `END` in `IDLE` has no transition. -/
theorem test_end_while_idle : faultOf (exec .endReq State.reset) = some .endWhileIdle := by decide

/-- P7, step 3: no `DONE`, the log stays. -/
theorem test_reset_keeps_log :
    (nextOf (exec .reset { openState 2#2 0x59#8 with outlog := [.out 0x59#8] })).map (fun s => (s.outlog, regs s)) =
      some ([.out 0x59#8], regs State.reset) := by decide

/-- 10.3: `RESET` in any state, here inside a block. -/
theorem test_reset_inside_block : (nextOf (exec .reset insideState)).map regs = some (regs State.reset) := by decide

/-- A placed word is what the next step runs. -/
theorem test_step_runs_placed_word :
    (nextOf (step (State.reset.withFetchWord 32 0x0720282))).map State.outlog = some [.out 0x81#8, .done .ok] := by
  decide +kernel

/-! ### The internal operations -/

/-- Section 3, a table of the configuration. -/
theorem test_perm_ip : (fromReset (.perm (.named .ip) 8 0x72#8)).map State.result = some (some (.bits 8 0xA9#8)) := by
  decide +kernel

/-- Section 3: `out<1> = v<0>`. -/
theorem test_perm_inline :
    (fromReset (.perm (.inline [2, 0, 1]) 3 0b100#3)).map State.result = some (some (.bits 3 0b010#3)) := by
  decide +kernel

/-- Section 4: toward cell 0, around the end. -/
theorem test_rol5_by_one : (fromReset (.rol5 0b10000#5 .one)).map State.result = some (some (.bits 5 0b00001#5)) := by
  decide +kernel

/-- Section 4. -/
theorem test_rol5_by_two : (fromReset (.rol5 0b11000#5 .two)).map State.result = some (some (.bits 5 0b00011#5)) := by
  decide +kernel

/-- Section 4 (`K2 = 0x92` without the cumulative shift, section 8). -/
theorem test_ks :
    (fromReset (.ks 0x282#10)).map (fun s => (s.k1, s.k2)) = some (some 0xA4#8, some 0x43#8) := by decide +kernel

/-- Section 11. -/
theorem test_ks_other_tables :
    (nextOf (exec (.ks 0x282#10) (State.powerUp tablesAlt))).map State.result =
      some (some (.pair 0x42#8 0x28#8)) := by decide +kernel

/-- 5.1: row 1, column 2 (2 in the textbook's addressing, section 9). -/
theorem test_sbox_s0 : (fromReset (.sbox .s0 0b0110#4)).map State.result = some (some (.bits 2 1#2)) := by
  decide +kernel

/-- 5.1: row 3, column 1. -/
theorem test_sbox_s1 : (fromReset (.sbox .s1 0b1101#4)).map State.result = some (some (.bits 2 1#2)) := by
  decide +kernel

/-- 5.2, second row. -/
theorem test_f : (fromReset (.f 0xA9#8 0xA4#8)).map State.result = some (some (.bits 4 0b1110#4)) := by decide +kernel

/-- 5.2, second row. -/
theorem test_fk : (fromReset (.fk 0xA9#8 0xA4#8)).map State.result = some (some (.bits 8 0x49#8)) := by decide +kernel

/-- 5.2. -/
theorem test_sw : (fromReset (.sw 0xAB#8)).map State.result = some (some (.bits 8 0xBA#8)) := by decide +kernel

/-- 6.1, second row. -/
theorem test_crypt :
    (fromReset (.crypt 0x02#8 0x5B#8 0xB8#8)).map State.result = some (some (.bits 8 0x10#8)) := by decide +kernel

/-- 6.1, first row. -/
theorem test_enc :
    (nextOf (exec (.enc 0x72#8) (openState 2#2 0#8))).map State.result = some (some (.bits 8 0x81#8)) := by
  decide +kernel

/-- 6.1: `Decrypt(0x59, 0x282)`. -/
theorem test_dec :
    (nextOf (exec (.dec 0x59#8) (openState 2#2 0#8))).map State.result = some (some (.bits 8 0x12#8)) := by
  decide +kernel

/-- 7.1, block 2. -/
theorem test_cbce_block :
    (nextOf (exec (.cbceBlock 0x4C#8) (openState 2#2 0xA6#8))).map (fun s => (s.result, s.fb, s.outlog)) =
      some (some (.bits 8 0xD0#8), some 0xD0#8, []) := by decide +kernel

/-- 7.1, block 1 decrypted. -/
theorem test_cbcd_block :
    (nextOf (exec (.cbcdBlock 0xA6#8) (openState 3#2 0x59#8))).map (fun s => (s.result, s.fb, s.outlog)) =
      some (some (.bits 8 0x45#8), some 0xA6#8, []) := by decide +kernel

/-! ### Beside the step: fine steps (P6), the boundary check (10.4), assembler lines (10.1) -/

theorem test_fine_load :
    (nextOf (fineStep ⟨openState 3#2 0x5A#8, .pending 0x59#8⟩)).map (fun f => (f.core.phase, f.core.roundS)) =
      some (.r1, some 0x8E#8) := by decide +kernel
theorem test_fine_round_one :
    (nextOf (fineStep ⟨{ openState 3#2 0x5A#8 with phase := .r1, roundS := some 0x8E#8 }, .inside 0x59#8⟩)).map
      (fun f => (f.core.phase, f.core.roundS)) = some (.r2, some 0xE9#8) := by decide +kernel
theorem test_fine_unload :
    (nextOf (fineStep ⟨{ openState 3#2 0x5A#8 with phase := .r2, roundS := some 0x09#8 }, .ready 0x59#8⟩)).map
      (fun f => (f.core.roundS, f.micro)) = some (none, .unloaded 0x59#8 0x12#8) := by decide +kernel
theorem test_check_key_first :
    checkRequest ⟨.deccbc, 0x682, .number 0x15A, List.replicate 12 false⟩ = .cvKeyWidth := by decide
theorem test_check_incomplete_buffer :
    checkRequest ⟨.enccbc, 0x282, .number 0x5A, List.replicate 12 false⟩ = .cvBufferLength := by decide
/-- R163: a single block given as a bit string of length other than 8. -/
theorem test_check_block_of_seven_bits :
    checkRequest ⟨.encb, 0x282, .bits (List.replicate 7 false), []⟩ = .cvBlockWidth := by decide
/-- R53: the cells of 0x72, cell 0 first. -/
theorem test_block_of_eight_bits :
    BlockOperand.value (.bits [false, true, true, true, false, false, true, false]) = 0x72#8 := by decide
theorem test_assemble_line :
    assembleLine "ENCCBC 0x282, 0x5A, 0x48".toList = some [.hdr 0x25A0282#26, .dat 0x48#8, .endReq] := by
  decide +kernel

/-! ### Witnesses: states and operands that meet all hypotheses of a statement together -/

theorem witness_DecodeOfEncodeIsIdentity :
    (Instr.encb 0xFFFF#16 0xFF#8).wellFormed = true ∧ encode (.encb 0xFFFF#16 0xFF#8) = some (.hdr 0x0FFFFFF#26) ∧
      Instr.endReq.wellFormed = true ∧ encode .endReq = some .endReq := by decide

theorem witness_StepRunsDecodedEvent :
    ({ State.reset with input := [.endReq] } : State).input = .endReq :: [] ∧ State.reset.input = [] ∧
      decodeTableWord 32 0x0720282 = some (.encb 0x0282#16 0x72#8) := by decide

theorem witness_SboxRowIsTopTwoBits :
    (3 : Fin 4).val = (0b1101#4).toNat / 4 ∧ (1 : Fin 4).val = (0b1101#4).toNat % 4 := by decide

theorem witness_tables_wellFormed : tablesStd.wellFormed = true ∧ tablesAlt.wellFormed = true := by decide +kernel

theorem witness_RoundReadsAndPassesRightHalf :
    tablesStd.wellFormed = true ∧ rightHalf 0x00#8 = rightHalf 0xF0#8 := by decide +kernel

theorem witness_RoundIsInvolution : tablesStd.wellFormed = true := witness_tables_wellFormed.1
theorem witness_InitialPermutationInverse : tablesStd.wellFormed = true := witness_tables_wellFormed.1
theorem witness_BlockRoundTrip : tablesAlt.wellFormed = true := witness_tables_wellFormed.2
theorem witness_EncryptIsBijection : tablesAlt.wellFormed = true := witness_tables_wellFormed.2

/-- 6.5: a self-inverse key that is not constant. -/
theorem witness_EqualSubkeysSelfInverse :
    tablesStd.wellFormed = true ∧ (ks tablesStd 0x217#10).1 = (ks tablesStd 0x217#10).2 := by decide +kernel

theorem witness_SubkeyCacheUnobservable : cacheSound tablesStd [(0x282#10, (0xA4#8, 0x43#8))] := by
  intro e he
  rw [List.mem_singleton.1 he]
  decide +kernel

/-- 7.1, blocks 0 and 1. -/
theorem witness_CbcEncryptRecurrence :
    ([0x48#8, 0x45#8] : List Block)[0]? = some 0x48#8 ∧
      ((0x5A#8 :: cbce tablesStd [0x48#8, 0x45#8] 0x282#10 0x5A#8)[0]? : Option Block) = some 0x5A#8 ∧
      ([0x48#8, 0x45#8] : List Block)[1]? = some 0x45#8 ∧
      ((0x5A#8 :: cbce tablesStd [0x48#8, 0x45#8] 0x282#10 0x5A#8)[1]? : Option Block) = some 0x59#8 := by
  decide +kernel

theorem witness_CbcDecryptRecurrence :
    ([0x59#8, 0xA6#8] : List Block)[0]? = some 0x59#8 ∧ ([0x5A#8, 0x59#8, 0xA6#8] : List Block)[0]? = some 0x5A#8 ∧
      ([0x59#8, 0xA6#8] : List Block)[1]? = some 0xA6#8 ∧ ([0x5A#8, 0x59#8, 0xA6#8] : List Block)[1]? = some 0x59#8 := by
  decide

theorem witness_CbcRoundTrip : tablesStd.wellFormed = true := witness_tables_wellFormed.1

/-- Block 0 lies before the change, block 1 is the changed one, block 2 the last. -/
theorem witness_PlaintextChangePropagates :
    tablesStd.wellFormed = true ∧ 0x4C#8 ≠ 0x4D#8 ∧ 0 < ([0x48#8] ++ 0x4C#8 :: [0x4F#8]).length ∧
      1 < ([0x48#8] ++ 0x4C#8 :: [0x4F#8]).length ∧ 2 < ([0x48#8] ++ 0x4C#8 :: [0x4F#8]).length := by decide +kernel

/-- Block 0 lies before the change, blocks 1 and 2 are touched, block 3 is not. -/
theorem witness_CiphertextChangeTouchesTwoBlocks :
    tablesStd.wellFormed = true ∧ 0xA6#8 ≠ 0x26#8 ∧ 0 < ([0x59#8] ++ 0xA6#8 :: [0xD0#8, 0x84#8]).length ∧
      3 < ([0x59#8] ++ 0xA6#8 :: [0xD0#8, 0x84#8]).length := by decide +kernel

/-- P4. -/
theorem witness_MessageContinuation :
    cbce tablesStd [0x48#8, 0x45#8] 0x282#10 0x5A#8 = [0x59#8] ++ [0xA6#8] := by decide +kernel

/-- 10.2: the largest valid key. -/
theorem witness_SingleBlockAnswers :
    State.reset.mode = .idle ∧ State.reset.phase = .none ∧ keyHigh 0x03FF#16 = 0#6 := by decide

theorem witness_CbcHeaderOpensRequest :
    State.reset.mode = .idle ∧ State.reset.phase = .none ∧ keyHigh 0x0000#16 = 0#6 := by decide

/-- 10.2: the smallest too wide key, and the widest. -/
theorem witness_WideKeyIsRejected :
    State.reset.mode = .idle ∧ State.reset.phase = .none ∧ keyHigh 0x0400#16 ≠ 0#6 ∧ keyHigh 0xFFFF#16 ≠ 0#6 := by
  decide

theorem witness_DatEncryptsBlock :
    let s := openState 2#2 0x5A#8
    s.mode = .cbc ∧ s.phase = .none ∧ s.op = some 2#2 ∧ s.k1 = some 0xA4#8 ∧ s.k2 = some 0x43#8 ∧ s.fb = some 0x5A#8 := by
  decide

theorem witness_DatDecryptsBlock :
    let s := openState 3#2 0x5A#8
    s.mode = .cbc ∧ s.phase = .none ∧ s.op = some 3#2 ∧ s.k1 = some 0xA4#8 ∧ s.k2 = some 0x43#8 ∧ s.fb = some 0x5A#8 := by
  decide

theorem witness_EndClosesRequest : (openState 2#2 0#8).mode = .cbc ∧ (openState 2#2 0#8).phase = .none := by decide

theorem witness_ResetFromEveryState :
    ({ insideState with input := [.reset, .endReq] } : State).input = .reset :: [.endReq] := by decide

theorem witness_EventAcceptanceTable :
    insideState.phase ≠ .none ∧ State.reset.valid = true ∧ (openState 2#2 0x5A#8).valid = true := by decide +kernel

theorem witness_OutOfGrammarEventsStop :
    ((openState 2#2 0#8).phase = .none ∧ (openState 2#2 0#8).mode = .cbc) ∧
      (State.reset.phase = .none ∧ State.reset.mode = .idle) ∧
      insideState.phase ≠ .none ∧ HostEvent.dat 0x45#8 ≠ .reset := by decide

/-- The source width exactly; the largest entry in range; the smallest out of range. -/
theorem witness_PermReturnsSelectedCells :
    (Instr.perm (.named .p10) 10 0x282#10).wellFormed = true ∧
      (Instr.perm (.inline [2, 0]) 3 0b100#3).wellFormed = true ∧ (∃ j ∈ [2, 3], 3 ≤ j) := by decide

theorem witness_CipherOperationsComplete :
    (openState 2#2 0#8).k1 = some 0xA4#8 ∧ (openState 2#2 0#8).k2 = some 0x43#8 := by decide

theorem witness_CbcBlockOperationsComplete :
    let s := openState 2#2 0x5A#8
    s.k1 = some 0xA4#8 ∧ s.k2 = some 0x43#8 ∧ s.fb = some 0x5A#8 := by decide

/-- The states of each clause: no register held, `FB` or the subkeys alone held, one register of an open request lost. -/
theorem witness_NovalReadIsFault :
    let k1Only : State := { State.reset with k1 := some 0xA4#8 }
    let fbOnly : State := { State.reset with fb := some 0x5A#8 }
    let fbAndK1 : State := { k1Only with fb := some 0x5A#8 }
    let both : State := { k1Only with k2 := some 0x43#8 }
    let lost (op : Option OpCode) (k1 k2 fb : Option Block) : State :=
      { State.reset with mode := .cbc, op := op, k1 := k1, k2 := k2, fb := fb }
    State.reset.k1 = none ∧ (k1Only.k1 ≠ none ∧ k1Only.k2 = none) ∧ State.reset.fb = none ∧
      (fbOnly.fb ≠ none ∧ fbOnly.k1 = none) ∧ (fbAndK1.fb ≠ none ∧ fbAndK1.k1 ≠ none ∧ fbAndK1.k2 = none) ∧
      (both.k1 ≠ none ∧ both.k2 ≠ none ∧ both.fb = none) ∧
      (let s := lost none (some 0xA4#8) (some 0x43#8) (some 0x5A#8); s.mode = .cbc ∧ s.phase = .none ∧ s.op = none) ∧
      (let s := lost (some 2#2) (some 0xA4#8) (some 0x43#8) none; s.mode = .cbc ∧ s.phase = .none ∧ s.op = some 2#2 ∧ s.fb = none) ∧
      (let s := lost (some 2#2) none (some 0x43#8) (some 0x5A#8); s.mode = .cbc ∧ s.phase = .none ∧ s.op = some 2#2 ∧ s.fb ≠ none ∧ s.k1 = none) ∧
      (let s := lost (some 2#2) (some 0xA4#8) none (some 0x5A#8); s.mode = .cbc ∧ s.phase = .none ∧ s.op = some 2#2 ∧ s.fb ≠ none ∧
        s.k1 ≠ none ∧ s.k2 = none) ∧
      (let s := lost (some 3#2) none (some 0x43#8) (some 0x5A#8); s.mode = .cbc ∧ s.phase = .none ∧ s.op = some 3#2 ∧ s.k1 = none) ∧
      (let s := lost (some 3#2) (some 0xA4#8) none (some 0x5A#8); s.mode = .cbc ∧ s.phase = .none ∧ s.op = some 3#2 ∧ s.k1 ≠ none ∧ s.k2 = none) ∧
      (let s := lost (some 3#2) (some 0xA4#8) (some 0x43#8) none; s.mode = .cbc ∧ s.phase = .none ∧ s.op = some 3#2 ∧ s.k1 ≠ none ∧
        s.k2 ≠ none ∧ s.fb = none) := by decide

/-- P2, steps 1 and 2, each from its own valid state. -/
theorem witness_ValidityKeptByStep :
    (∃ t, ({ State.reset with input := [.hdr 0x25A0282#26] } : State).valid = true ∧
        step { State.reset with input := [.hdr 0x25A0282#26] } = .next t) ∧
      ∃ t, ({ openState 2#2 0x5A#8 with input := [.dat 0x48#8] } : State).valid = true ∧
        step { openState 2#2 0x5A#8 with input := [.dat 0x48#8] } = .next t :=
  ⟨⟨_, by decide +kernel, rfl⟩, _, by decide +kernel, rfl⟩

theorem witness_ValidityAtReset : tablesAlt.wellFormed = true := witness_tables_wellFormed.2

/-- Both forms of the pair: none, and the pair of key 0x282. -/
theorem witness_SubkeyPairKeptByStep :
    (∃ t, ({ State.reset with input := [.hdr 0x25A0282#26] } : State).subkeysPaired ∧
        step { State.reset with input := [.hdr 0x25A0282#26] } = .next t) ∧
      ∃ t, ({ openState 2#2 0x5A#8 with input := [.endReq] } : State).subkeysPaired ∧
        step { openState 2#2 0x5A#8 with input := [.endReq] } = .next t :=
  ⟨⟨_, .inl ⟨rfl, rfl⟩, rfl⟩, _, .inr ⟨0x282#10, by decide +kernel, by decide +kernel⟩, rfl⟩

theorem witness_ValidStatesNeverReadNoval :
    ({ openState 3#2 0x5A#8 with input := [.dat 0x59#8] } : State).valid = true := by decide +kernel

/-- Two events, one event, none. -/
theorem witness_TablesConstantAndLogGrows :
    (∃ t, exec (.encb 0x282#16 0x72#8) State.reset = .next t) ∧
      (∃ t, exec (.dat 0x48#8) (openState 2#2 0x5A#8) = .next t) ∧ ∃ t, exec (.sw 0#8) State.reset = .next t :=
  ⟨⟨_, rfl⟩, ⟨_, rfl⟩, _, rfl⟩

/-- A CBC request with one block, one with an empty buffer, and one with a wide key. -/
theorem witness_RequestBigStep :
    let s (k : KeyContainer) (ps : List Block) : State :=
      { State.reset with input := requestEvents .enccbc k 0x5A#8 ps ++ [.reset] }
    ((s 0x282#16 [0x48#8]).closed = true ∧
        (s 0x282#16 [0x48#8]).input = requestEvents .enccbc 0x282#16 0x5A#8 [0x48#8] ++ [.reset] ∧
        keyHigh 0x282#16 = 0#6) ∧
      ((s 0x282#16 []).closed = true ∧ (s 0x282#16 []).input = requestEvents .enccbc 0x282#16 0x5A#8 [] ++ [.reset]) ∧
      ((s 0x400#16 []).closed = true ∧ (s 0x400#16 []).input = requestEvents .enccbc 0x400#16 0x5A#8 [] ++ [.reset] ∧
        keyHigh 0x400#16 ≠ 0#6) := by decide

/-- The program P1, from a log with no violation. -/
theorem witness_ProgramServedInOrder :
    let rs : List (Operation × KeyContainer × Block × List Block) :=
      [(.encb, 0x282#16, 0x72#8, []), (.decb, 0x282#16, 0x81#8, [])]
    let s : State := { State.reset with input := [.hdr 0x0720282#26, .hdr 0x1810282#26] }
    s.closed = true ∧ (∀ r ∈ rs, keyHigh r.2.1 = 0#6) ∧
      s.input = rs.flatMap (fun r => requestEvents r.1 r.2.1 r.2.2.1 r.2.2.2) ∧ s.noViolation = true := by decide

/-- Two histories: nothing, and a request answered before. -/
theorem witness_RequestsDoNotInterfere :
    let es := requestEvents .enccbc 0x282#16 0x5A#8 [0x48#8]
    let s : State := { State.reset with input := es ++ [] }
    let s' : State := { State.reset with input := es ++ [.reset], outlog := [.out 0x81#8, .done .ok] }
    s.closed = true ∧ s'.closed = true ∧ s.tables = s'.tables ∧ keyHigh 0x282#16 = 0#6 ∧ s.input = es ++ [] ∧
      s'.input = es ++ [.reset] := by decide

/-- 10.4: a request of two blocks. -/
theorem witness_AbstractRequestMatchesPort :
    let es : List HostEvent := [.hdr 0x25A0282#26, .dat 0x00#8, .dat 0x00#8, .endReq]
    ({ State.reset with input := es ++ [] } : State).closed = true ∧
      portEvents ⟨.enccbc, 0x282, .number 0x5A, List.replicate 16 false⟩ = some es ∧
      ({ State.reset with input := es ++ [] } : State).input = es ++ [] := by decide +kernel

/-- Each clause at the boundary of its range, the two widths of a bit string beside 8 among them. -/
theorem witness_BoundaryCheckOrder :
    let wideKey : Request := ⟨.encb, 0x400, .number 0x100, []⟩
    let wideArg : Request := ⟨.encb, 0x3FF, .number 0x100, []⟩
    let shortArg : Request := ⟨.encb, 0x3FF, .bits (List.replicate 7 true), []⟩
    let longArg : Request := ⟨.encb, 0x3FF, .bits (List.replicate 9 true), []⟩
    let cutBuffer : Request := ⟨.enccbc, 0x3FF, .number 0xFF, List.replicate 7 false⟩
    let stray : Request := ⟨.decb, 0x3FF, .bits (List.replicate 8 true), [false]⟩
    2 ^ 10 ≤ wideKey.key ∧ (wideArg.key < 2 ^ 10 ∧ wideArg.arg = .number 0x100 ∧ 2 ^ 8 ≤ 0x100) ∧
      (shortArg.key < 2 ^ 10 ∧ shortArg.arg = .bits (List.replicate 7 true) ∧ (List.replicate 7 true).length ≠ 8) ∧
      (longArg.key < 2 ^ 10 ∧ longArg.arg = .bits (List.replicate 9 true) ∧ (List.replicate 9 true).length ≠ 8) ∧
      (cutBuffer.key < 2 ^ 10 ∧ cutBuffer.arg.fits = true ∧ (cutBuffer.op = .enccbc ∨ cutBuffer.op = .deccbc) ∧
        cutBuffer.data.length % 8 ≠ 0) ∧
      (stray.key < 2 ^ 10 ∧ stray.arg.fits = true ∧ (stray.op = .encb ∨ stray.op = .decb) ∧ stray.data ≠ []) ∧
      (cutBuffer.arg = .number 0xFF ∧ 0xFF < 2 ^ 8) ∧
      (stray.arg = .bits (List.replicate 8 true) ∧ (List.replicate 8 true).length = 8) := by decide

/-- A step that answers, and one that stops. -/
theorem witness_FineStepsRefineCoarse :
    (∃ t, ({ State.reset with input := [.hdr 0x0720282#26] } : State).valid = true ∧
        step { State.reset with input := [.hdr 0x0720282#26] } = .next t) ∧
      ∃ r, ({ State.reset with input := [.endReq] } : State).valid = true ∧
        step { State.reset with input := [.endReq] } = .fault r :=
  ⟨⟨_, by decide +kernel, rfl⟩, _, by decide +kernel, rfl⟩

/-- A valid state at each micro-step, with a next fine step where nothing is in progress. -/
theorem witness_FineValidityKept :
    let mid : State := { State.reset with op := some 0#2, k1 := some 0xA4#8, k2 := some 0x43#8 }
    (FineState.valid ⟨State.reset, .idle⟩ = true ∧ ∃ g, fineStep ⟨State.reset, .idle⟩ = .next g) ∧
      FineState.valid ⟨mid, .pending 0x72#8⟩ = true ∧
      FineState.valid ⟨{ mid with phase := .r1, roundS := some 0xA9#8 }, .inside 0x72#8⟩ = true ∧
      FineState.valid ⟨{ mid with phase := .r2, roundS := some 0x14#8 }, .ready 0x72#8⟩ = true ∧
      FineState.valid ⟨mid, .unloaded 0x72#8 0x81#8⟩ = true ∧ Micro.pending 0x72#8 ≠ .idle :=
  ⟨⟨by decide +kernel, _, rfl⟩, by decide +kernel⟩

theorem witness_FineResetInsideBlock :
    FineState.valid ⟨insideState, .inside 0x48#8⟩ = true ∧ Micro.inside 0x48#8 ≠ .idle ∧
      HostEvent.dat 0x45#8 ≠ .reset := by decide +kernel

theorem witness_ConfigurationCheck : rawStd.configure = some tablesStd := by decide +kernel

end Sys2Proof.Tests
end

/-! ## The state of FCE: which register holds a value when (R11, R20, R21, R22, R26)

The rules of the shared operations, of the instructions and of an event come first; the invariants and the obligations
about the coarse step follow, the fine steps stand last. -/

section
namespace Sys2Proof.Machine

/-! ### The shared operations: when they go on, and when they stop -/

/-- A read of the subkey pair goes on where both hold values. -/
theorem readSubkeys_some {σ : Type} {s : State} {k1 k2 : Subkey} (h1 : s.k1 = some k1) (h2 : s.k2 = some k2)
    (use : Subkey → Subkey → Host.Outcome σ Fault Refusal) : readSubkeys s use = use k1 k2 := by
  simp only [readSubkeys, readReg, h1, h2]

/-- Without `K1` the subkey pair is not read, and the fault names `K1`. -/
theorem readSubkeys_k1_none {σ : Type} {s : State} (h1 : s.k1 = none)
    (use : Subkey → Subkey → Host.Outcome σ Fault Refusal) : readSubkeys s use = .fault (.readNoval .k1) := by
  simp only [readSubkeys, readReg, h1]

/-- With `K1` but without `K2` the fault names `K2`. -/
theorem readSubkeys_k2_none {σ : Type} {s : State} (h1 : s.k1 ≠ none) (h2 : s.k2 = none)
    (use : Subkey → Subkey → Host.Outcome σ Fault Refusal) : readSubkeys s use = .fault (.readNoval .k2) := by
  obtain ⟨k1, h1⟩ := Option.ne_none_iff_exists'.1 h1
  simp only [readSubkeys, readReg, h1, h2]

/-- `ENC` over registers that hold the subkeys goes on. -/
theorem encOp_some {σ : Type} {b : Block} {s : State} {use : Block → State → Host.Outcome σ Fault Refusal}
    {k1 k2 : Subkey} (h1 : s.k1 = some k1) (h2 : s.k2 = some k2) :
    encOp b s use = use (enc s.tables b k1 k2) (leaveCipher s) :=
  readSubkeys_some h1 h2 _

/-- `DEC` over registers that hold the subkeys goes on. -/
theorem decOp_some {σ : Type} {b : Block} {s : State} {use : Block → State → Host.Outcome σ Fault Refusal}
    {k1 k2 : Subkey} (h1 : s.k1 = some k1) (h2 : s.k2 = some k2) :
    decOp b s use = use (dec s.tables b k1 k2) (leaveCipher s) :=
  readSubkeys_some h1 h2 _

/-- A block of CBC encryption goes on where `FB` and the subkeys hold values. -/
theorem cbceBlockOp_some {σ : Type} {p : Block} {s : State} {use : Block → State → Host.Outcome σ Fault Refusal}
    {fb : Block} {k1 k2 : Subkey} (hfb : s.fb = some fb) (h1 : s.k1 = some k1) (h2 : s.k2 = some k2) :
    cbceBlockOp p s use =
      use (enc s.tables (p ^^^ fb) k1 k2) (chainOn (enc s.tables (p ^^^ fb) k1 k2) (leaveCipher s)) := by
  simp only [cbceBlockOp, readReg, hfb, encOp_some h1 h2]

/-- A block of CBC decryption goes on where the subkeys and `FB` hold values. -/
theorem cbcdBlockOp_some {σ : Type} {c : Block} {s : State} {use : Block → State → Host.Outcome σ Fault Refusal}
    {fb : Block} {k1 k2 : Subkey} (hfb : s.fb = some fb) (h1 : s.k1 = some k1) (h2 : s.k2 = some k2) :
    cbcdBlockOp c s use = use (dec s.tables c k1 k2 ^^^ fb) (chainOn c (leaveCipher s)) := by
  simp only [cbcdBlockOp, decOp_some h1 h2, leaveCipher_fb, readReg, hfb]

/-- A block of CBC encryption reads `FB`, then the subkeys. -/
theorem cbceBlockOp_noval {σ : Type} (p : Block) (s : State) (use : Block → State → Host.Outcome σ Fault Refusal) :
    (s.fb = none → cbceBlockOp p s use = .fault (.readNoval .fb)) ∧
      (s.fb ≠ none → s.k1 = none → cbceBlockOp p s use = .fault (.readNoval .k1)) ∧
      (s.fb ≠ none → s.k1 ≠ none → s.k2 = none → cbceBlockOp p s use = .fault (.readNoval .k2)) := by
  refine ⟨fun hfb => ?_, fun hfb h1 => ?_, fun hfb h1 h2 => ?_⟩
  · rw [cbceBlockOp, hfb, readReg]
  · obtain ⟨fb, hfb⟩ := Option.ne_none_iff_exists'.1 hfb
    rw [cbceBlockOp, hfb, readReg, encOp, readSubkeys_k1_none h1]
  · obtain ⟨fb, hfb⟩ := Option.ne_none_iff_exists'.1 hfb
    rw [cbceBlockOp, hfb, readReg, encOp, readSubkeys_k2_none h1 h2]

/-- A block of CBC decryption reads the subkeys, then `FB`. -/
theorem cbcdBlockOp_noval {σ : Type} (c : Block) (s : State) (use : Block → State → Host.Outcome σ Fault Refusal) :
    (s.k1 = none → cbcdBlockOp c s use = .fault (.readNoval .k1)) ∧
      (s.k1 ≠ none → s.k2 = none → cbcdBlockOp c s use = .fault (.readNoval .k2)) ∧
      (s.k1 ≠ none → s.k2 ≠ none → s.fb = none → cbcdBlockOp c s use = .fault (.readNoval .fb)) := by
  refine ⟨fun h1 => readSubkeys_k1_none h1 _, fun h1 h2 => readSubkeys_k2_none h1 h2 _, fun h1 h2 hfb => ?_⟩
  obtain ⟨k1, h1⟩ := Option.ne_none_iff_exists'.1 h1
  obtain ⟨k2, h2⟩ := Option.ne_none_iff_exists'.1 h2
  rw [cbcdBlockOp, decOp_some h1 h2, leaveCipher_fb, hfb, readReg]

/-- A header that stops was out of grammar, or what it guards has stopped. -/
theorem acceptHeader_fault {σ : Type} {key16 : KeyContainer} {s : State} {violated : State → σ}
    {accepted : Key → Host.Outcome σ Fault Refusal} {r : Fault}
    (h : acceptHeader key16 s violated accepted = .fault r) :
    r = .eventInsideBlock ∨ r = .hdrWhileOpen ∨ accepted (keyLow key16) = .fault r := by
  unfold acceptHeader at h
  split at h
  · cases h; exact .inl rfl
  split at h
  · cases h; exact .inr (.inl rfl)
  split at h
  · cases h
  · exact .inr (.inr h)

/-- A `DAT` or `END` that stops was out of grammar, or what it guards has stopped inside the request. -/
theorem acceptInRequest_fault {σ : Type} {whyNot : Fault} {s : State} {accepted : Host.Outcome σ Fault Refusal}
    {r : Fault} (h : acceptInRequest whyNot s accepted = .fault r) :
    r = .eventInsideBlock ∨ r = whyNot ∨ (s.mode = .cbc ∧ accepted = .fault r) := by
  unfold acceptInRequest at h
  split at h
  · cases h; exact .inl rfl
  split at h
  · cases h; exact .inr (.inl rfl)
  next hm =>
    have hcbc : s.mode = .cbc := by
      cases hs : s.mode with
      | idle => exact absurd hs hm
      | cbc => rfl
    exact .inr (.inr ⟨hcbc, h⟩)

/-! ### The instructions of the port -/

/-- The state an accepted header leads to: a single block is answered at once (R142), a CBC request is opened (R144). -/
def acceptedState (o : Operation) (arg : Block) (key : Key) (s : State) : State :=
  match o with
  | .encb => answerSingle (encrypt s.tables arg key) (leaveCipher (latchHeader 0#2 key s))
  | .decb => answerSingle (decrypt s.tables arg key) (leaveCipher (latchHeader 1#2 key s))
  | .enccbc => openChain arg (latchHeader 2#2 key s)
  | .deccbc => openChain arg (latchHeader 3#2 key s)

/-- Each header is its check and one state: the cipher of a single block never stops, since the header has just latched
both subkeys. -/
theorem exec_header (o : Operation) (key16 : KeyContainer) (arg : Block) (s : State) :
    exec (o.toInstr key16 arg) s = acceptHeader key16 s id fun key => .next (acceptedState o arg key s) := by
  cases o <;> rfl

/-- A header that answers was taken with no request open, and was the violation step or was accepted. -/
theorem exec_header_next {o : Operation} {key16 : KeyContainer} {arg : Block} {s t : State}
    (h : exec (o.toInstr key16 arg) s = .next t) :
    s.phase = .none ∧ s.mode = .idle ∧
      ((keyTooWide key16 = true ∧ t = raiseViolation .cvKeyWidth s) ∨
        (keyTooWide key16 = false ∧ t = acceptedState o arg (keyLow key16) s)) := by
  rw [exec_header] at h
  obtain ⟨hp, hm, h | ⟨hk, h⟩⟩ := acceptHeader_next h
  · exact ⟨hp, hm, .inl h⟩
  · cases h
    exact ⟨hp, hm, .inr ⟨hk, rfl⟩⟩

/-- The meaning of `DAT`. -/
theorem exec_dat (b : Block) (s : State) : exec (.dat b) s = execDat b s := rfl

/-- `DAT` in an encrypting request is one block of CBC encryption and its `OUT` (R145). -/
theorem execDat_encrypts (b : Block) {s : State} (hm : s.mode = .cbc) (hp : s.phase = .none) (hop : s.op = some 2#2) :
    execDat b s = cbceBlockOp b s fun c s' => .next (emit (.out c) s') := by
  rw [execDat, acceptInRequest_accepts _ _ hm hp, hop]
  rfl

/-- `DAT` in a decrypting request is one block of CBC decryption and its `OUT` (R146). -/
theorem execDat_decrypts (b : Block) {s : State} (hm : s.mode = .cbc) (hp : s.phase = .none) (hop : s.op = some 3#2) :
    execDat b s = cbcdBlockOp b s fun p s' => .next (emit (.out p) s') := by
  rw [execDat, acceptInRequest_accepts _ _ hm hp, hop]
  rfl

/-- A `DAT` that answers has emitted one block and moved the chaining state on (R127, R129). -/
theorem execDat_next {b : Block} {s t : State} (h : execDat b s = .next t) :
    s.phase = .none ∧ s.mode = .cbc ∧ ∃ op fb k1 k2,
      s.op = some op ∧ opChains op = true ∧ s.fb = some fb ∧ s.k1 = some k1 ∧ s.k2 = some k2 ∧
        ((opDecrypts op = true ∧ t = emit (.out (dec s.tables b k1 k2 ^^^ fb)) (chainOn b (leaveCipher s))) ∨
          (opDecrypts op = false ∧
            t = emit (.out (enc s.tables (b ^^^ fb) k1 k2))
              (chainOn (enc s.tables (b ^^^ fb) k1 k2) (leaveCipher s)))) := by
  obtain ⟨hp, hm, h⟩ := acceptInRequest_next h
  obtain ⟨op, hop, h⟩ := readReg_next h
  refine ⟨hp, hm, ?_⟩
  split at h
  next hc =>
    split at h
    next hd =>
      obtain ⟨fb, k1, k2, hfb, h1, h2, h⟩ := cbcdBlockOp_next h
      cases h
      exact ⟨op, fb, k1, k2, hop, hc, hfb, h1, h2, .inl ⟨hd, rfl⟩⟩
    next hd =>
      obtain ⟨fb, k1, k2, hfb, h1, h2, h⟩ := cbceBlockOp_next h
      cases h
      exact ⟨op, fb, k1, k2, hop, hc, hfb, h1, h2, .inr ⟨by simpa using hd, rfl⟩⟩
  next => cases h

/-- An `END` that answers has closed the open request (R147). -/
theorem execEndReq_next {s t : State} (h : execEndReq s = .next t) :
    s.phase = .none ∧ s.mode = .cbc ∧ t = closeChain s := by
  obtain ⟨hp, hm, h⟩ := acceptInRequest_next h
  cases h
  exact ⟨hp, hm, rfl⟩

/-- `DAT` with no `OP` latched reads nothing further. -/
theorem execDat_op_none (b : Block) {s : State} (hm : s.mode = .cbc) (hp : s.phase = .none) (hop : s.op = none) :
    execDat b s = .fault (.readNoval .op) := by
  rw [execDat, acceptInRequest_accepts _ _ hm hp, hop, readReg]

/-! ### One event, whichever it is -/

/-- The six things an event of the port can do to the registers, with the `MODE` and `PHASE` it is accepted in (R141).
Which block is emitted is in the lemma of each instruction, and is left open here. -/
inductive EventEffect (s : State) : State → Prop
  /-- a header with a too wide key (R165) -/
  | violated (hp : s.phase = .none) (hm : s.mode = .idle) : EventEffect s (raiseViolation .cvKeyWidth s)
  /-- a single-block header (R142) -/
  | answered (hp : s.phase = .none) (hm : s.mode = .idle) (op : OpCode) (key : Key) (y : Block) :
      EventEffect s (answerSingle y (leaveCipher (latchHeader op key s)))
  /-- a CBC header (R144) -/
  | opened (hp : s.phase = .none) (hm : s.mode = .idle) (op : OpCode) (hop : op = 2#2 ∨ op = 3#2) (key : Key)
      (iv : Block) : EventEffect s (openChain iv (latchHeader op key s))
  /-- a data block (R145, R146) -/
  | chained (hp : s.phase = .none) (hm : s.mode = .cbc) (y c : Block) :
      EventEffect s (emit (.out y) (chainOn c (leaveCipher s)))
  /-- the end of a CBC request (R147) -/
  | ended (hp : s.phase = .none) (hm : s.mode = .cbc) : EventEffect s (closeChain s)
  /-- a reset, in every state (R180) -/
  | reset : EventEffect s (resetState s)

/-- A header that answers violates, answers its single block, or opens a request. -/
theorem exec_header_effect {o : Operation} {key16 : KeyContainer} {arg : Block} {s t : State}
    (h : exec (o.toInstr key16 arg) s = .next t) : EventEffect s t := by
  obtain ⟨hp, hm, ⟨-, rfl⟩ | ⟨-, rfl⟩⟩ := exec_header_next h
  · exact .violated hp hm
  · cases o with
    | encb | decb => exact .answered hp hm ..
    | enccbc => exact .opened hp hm _ (.inl rfl) ..
    | deccbc => exact .opened hp hm _ (.inr rfl) ..

/-- An event that answers has one of the six effects. -/
theorem exec_decodeEvent_effect (e : HostEvent) {s t : State} (h : exec (decodeEvent e) s = .next t) :
    EventEffect s t := by
  cases e with
  | hdr w => exact exec_header_effect h
  | dat b =>
    obtain ⟨hp, hm, _, _, _, _, _, _, _, _, _, ⟨_, rfl⟩ | ⟨_, rfl⟩⟩ := execDat_next h
    · exact .chained hp hm ..
    · exact .chained hp hm ..
  | endReq =>
    obtain ⟨hp, hm, rfl⟩ := execEndReq_next h
    exact .ended hp hm
  | reset => cases h; exact .reset

/-- A property of the registers that every event keeps is kept by every step. -/
theorem step_keeps {P : State → Prop} (hinput : ∀ s rest, P s → P { s with input := rest })
    (heffect : ∀ s t, P s → EventEffect s t → P t) {s t : State} (hs : P s) (h : step s = .next t) : P t := by
  obtain ⟨-, rfl⟩ | ⟨e, rest, -, h⟩ := step_next h
  · exact hs
  · exact heffect _ _ (hinput s rest hs) (exec_decodeEvent_effect e h)

end Sys2Proof.Machine
end

section
namespace Sys2Proof.Machine

/-! ### The validity table of R26 -/

/-- Row 1 of R26, register by register. -/
theorem State.closed_iff (s : State) :
    s.closed = true ↔ s.mode = .idle ∧ s.phase = .none ∧ s.op = none ∧ s.k1 = none ∧ s.k2 = none ∧
      s.roundS = none ∧ s.fb = none ∧ s.idx = 0 := by
  simp [State.closed, and_assoc]

/-- Row 2 of R26, register by register. -/
theorem State.betweenBlocks_iff (s : State) :
    s.betweenBlocks = true ↔ s.mode = .cbc ∧ s.phase = .none ∧ (s.op = some 2#2 ∨ s.op = some 3#2) ∧
      (∃ k1, s.k1 = some k1) ∧ (∃ k2, s.k2 = some k2) ∧ s.roundS = none ∧ ∃ fb, s.fb = some fb := by
  simp [State.betweenBlocks, and_assoc, Option.isSome_iff_exists]

/-- A valid state has well-formed `TABLES` and is in row 1 or row 2. -/
theorem State.valid_iff (s : State) :
    s.valid = true ↔ s.tables.wellFormed = true ∧ (s.closed = true ∨ s.betweenBlocks = true) := by
  simp [State.valid]

/-- A valid state with no request open is in row 1. -/
theorem closed_of_valid {s : State} (hv : s.valid = true) (hm : s.mode = .idle) : s.closed = true := by
  obtain ⟨-, hc | hb⟩ := s.valid_iff.1 hv
  · exact hc
  · obtain ⟨hm', -⟩ := s.betweenBlocks_iff.1 hb
    rw [hm] at hm'
    cases hm'

/-- A valid state with a request open is in row 2. -/
theorem betweenBlocks_of_valid {s : State} (hv : s.valid = true) (hm : s.mode = .cbc) : s.betweenBlocks = true := by
  obtain ⟨-, hc | hb⟩ := s.valid_iff.1 hv
  · obtain ⟨hm', -⟩ := s.closed_iff.1 hc
    rw [hm] at hm'
    cases hm'
  · exact hb

/-- Every event goes from one row of R26 to the same or the other. -/
theorem valid_of_eventEffect {s t : State} (hv : s.valid = true) (h : EventEffect s t) : t.valid = true := by
  obtain ⟨hw, -⟩ := s.valid_iff.1 hv
  rw [State.valid_iff]
  cases h with
  | violated hp hm =>
    have hc := s.closed_iff.1 (closed_of_valid hv hm)
    exact ⟨hw, .inl (by simpa [State.closed_iff, hm] using hc)⟩
  | answered hp hm op key y =>
    obtain ⟨-, -, -, -, -, -, hfb, hidx⟩ := s.closed_iff.1 (closed_of_valid hv hm)
    exact ⟨hw, .inl (by simp [State.closed_iff, hm, hfb, hidx])⟩
  | opened hp hm op hop key iv =>
    obtain ⟨-, -, -, -, -, hS, -⟩ := s.closed_iff.1 (closed_of_valid hv hm)
    exact ⟨hw, .inr (by simp [State.betweenBlocks_iff, hp, hop, hS])⟩
  | chained hp hm y c =>
    obtain ⟨-, -, hop, hk1, hk2, -⟩ := s.betweenBlocks_iff.1 (betweenBlocks_of_valid hv hm)
    exact ⟨hw, .inr (by simp [State.betweenBlocks_iff, hm, hop, hk1, hk2])⟩
  | ended hp hm => exact ⟨hw, .inl (by simp [State.closed_iff, hp])⟩
  | reset => exact ⟨hw, .inl (by simp [State.closed_iff])⟩

/-- Settles O46: each of the six effects of an event leads from a row of R26 to a row of R26. -/
theorem validityKeptByStep : Obligations.ValidityKeptByStep :=
  fun _ _ => step_keeps (P := fun s => s.valid = true) (fun _ _ hv => hv) fun _ _ => valid_of_eventEffect

/-! ### The subkey pair (R11, R88) -/

/-- Every event writes the pair of one key, clears both subkeys, or leaves both. -/
theorem subkeysPaired_of_eventEffect {s t : State} (hs : s.subkeysPaired) (h : EventEffect s t) : t.subkeysPaired := by
  cases h with
  | violated | chained => exact hs
  | answered | ended | reset => exact .inl ⟨rfl, rfl⟩
  | opened hp hm op hop key iv => exact .inr ⟨key, rfl, rfl⟩

/-- Settles O48: only `KS` at a header writes a subkey, and it writes the pair. -/
theorem subkeyPairKeptByStep : Obligations.SubkeyPairKeptByStep :=
  fun _ _ => step_keeps (fun _ _ hs => hs) fun _ _ => subkeysPaired_of_eventEffect

/-! ### Reads of `NOVAL` (R20) -/

/-- No header reads a register that holds `NOVAL`, in any state. -/
theorem exec_header_ne_readNoval (o : Operation) (key16 : KeyContainer) (arg : Block) (s : State) (r : RegName) :
    exec (o.toInstr key16 arg) s ≠ .fault (.readNoval r) := by
  intro h
  rw [exec_header] at h
  obtain h | h | h := acceptHeader_fault h <;> cases h

/-- Between the blocks of a request `DAT` always answers. -/
theorem execDat_answers (b : Block) {s : State} (hb : s.betweenBlocks = true) : ∃ t, execDat b s = .next t := by
  obtain ⟨hm, hp, hop, ⟨k1, h1⟩, ⟨k2, h2⟩, -, fb, hfb⟩ := s.betweenBlocks_iff.1 hb
  obtain hop | hop := hop
  · exact ⟨_, by rw [execDat_encrypts b hm hp hop, cbceBlockOp_some hfb h1 h2]⟩
  · exact ⟨_, by rw [execDat_decrypts b hm hp hop, cbcdBlockOp_some hfb h1 h2]⟩

/-- No event taken in a valid state reads a register that holds `NOVAL`. -/
theorem exec_decodeEvent_ne_readNoval (e : HostEvent) {s : State} (hv : s.valid = true) (r : RegName) :
    exec (decodeEvent e) s ≠ .fault (.readNoval r) := by
  cases e with
  | hdr w => exact exec_header_ne_readNoval _ _ _ s r
  | dat b =>
    intro h
    obtain h' | h' | ⟨hm, -⟩ := acceptInRequest_fault h
    · cases h'
    · cases h'
    · obtain ⟨t, ht⟩ := execDat_answers b (betweenBlocks_of_valid hv hm)
      cases ht.symm.trans h
  | endReq =>
    intro h
    obtain h | h | ⟨-, h⟩ := acceptInRequest_fault h <;> cases h
  | reset => intro h; cases h

/-- Settles O49: a header reads only what it has just written, and in row 2 of R26 everything `DAT` reads is there. -/
theorem validStatesNeverReadNoval : Obligations.ValidStatesNeverReadNoval := by
  intro s r hv
  rw [step]
  split
  next => simp
  next e rest _ => exact exec_decodeEvent_ne_readNoval e (s := { s with input := rest }) hv r

/-- Settles O45: the cipher call, the two block operations and the two kinds of `DAT` each read in their fixed order. -/
theorem novalReadIsFault : Obligations.NovalReadIsFault := by
  intro s b
  obtain ⟨efb, ek1, ek2⟩ := cbceBlockOp_noval b s fun c s' => .next (returnValue (.bits 8 c) s')
  obtain ⟨dk1, dk2, dfb⟩ := cbcdBlockOp_noval b s fun p s' => .next (returnValue (.bits 8 p) s')
  refine ⟨fun h1 => ⟨readSubkeys_k1_none h1 _, readSubkeys_k1_none h1 _⟩,
    fun h1 h2 => ⟨readSubkeys_k2_none h1 h2 _, readSubkeys_k2_none h1 h2 _⟩,
    efb, ek1, ek2, dk1, dk2, dfb, fun hm hp => ⟨execDat_op_none b hm hp, fun hop => ?_, fun hop => ?_⟩⟩
  · rw [exec_dat, execDat_encrypts b hm hp hop]
    exact cbceBlockOp_noval b s _
  · rw [exec_dat, execDat_decrypts b hm hp hop]
    exact cbcdBlockOp_noval b s _

/-! ### What every instruction leaves alone (R21, R22) -/

/-- `TABLES` and the host's queue are as before, and `OUTLOG` has grown by `new`. -/
def Appends (new : List OutEvent) (s t : State) : Prop :=
  t.tables = s.tables ∧ t.input = s.input ∧ t.outlog = s.outlog ++ new

/-- A state that keeps `TABLES`, the queue and `OUTLOG` appends nothing. -/
theorem Appends.of_eq {s t : State} (htables : t.tables = s.tables) (hinput : t.input = s.input)
    (hlog : t.outlog = s.outlog) : Appends [] s t :=
  ⟨htables, hinput, by rw [hlog, List.append_nil]⟩

/-- An accepted header emits `OUT` and `DONE`, or nothing. -/
theorem acceptedState_appends (o : Operation) (arg : Block) (key : Key) (s : State) :
    ∃ new, Appends new s (acceptedState o arg key s) ∧
      (new = [] ∨ ((o = .encb ∨ o = .decb) ∧ new.length = 2)) := by
  cases o with
  | encb => exact ⟨_, ⟨rfl, rfl, List.append_assoc ..⟩, .inr ⟨.inl rfl, rfl⟩⟩
  | decb => exact ⟨_, ⟨rfl, rfl, List.append_assoc ..⟩, .inr ⟨.inr rfl, rfl⟩⟩
  | enccbc | deccbc => exact ⟨[], .of_eq rfl rfl rfl, .inl rfl⟩

/-- A header emits `DONE` of a violation, or what it emits accepted. -/
theorem exec_header_appends {o : Operation} {key16 : KeyContainer} {arg : Block} {s t : State}
    (h : exec (o.toInstr key16 arg) s = .next t) :
    ∃ new, Appends new s t ∧ (new.length ≤ 1 ∨ ((o = .encb ∨ o = .decb) ∧ new.length = 2)) := by
  obtain ⟨-, -, ⟨-, rfl⟩ | ⟨-, rfl⟩⟩ := exec_header_next h
  · exact ⟨_, ⟨rfl, rfl, rfl⟩, .inl le_rfl⟩
  · obtain ⟨new, hnew, rfl | hlen⟩ := acceptedState_appends o arg (keyLow key16) s
    · exact ⟨[], hnew, .inl (Nat.zero_le 1)⟩
    · exact ⟨new, hnew, .inr hlen⟩

/-- An internal operation, a row of the opcode table that has no event (R55), emits nothing. -/
theorem exec_internal_appends {i : Instr} (hi : encode i = none) {s t : State} (h : exec i s = .next t) :
    Appends [] s t := by
  cases i with
  | encb | decb | enccbc | deccbc | dat | endReq | reset => cases hi
  | perm tab w v =>
    change execPerm tab w v s = _ at h
    rw [execPerm] at h
    split at h
    · cases h; exact .of_eq rfl rfl rfl
    · cases h
  | rol5 | ks | sbox | f | fk | sw | crypt => cases h; exact .of_eq rfl rfl rfl
  | enc b =>
    change execEnc b s = _ at h
    obtain ⟨_, _, _, _, h⟩ := encOp_next h
    cases h; exact .of_eq rfl rfl rfl
  | dec b =>
    change execDec b s = _ at h
    obtain ⟨_, _, _, _, h⟩ := decOp_next h
    cases h; exact .of_eq rfl rfl rfl
  | cbceBlock p =>
    change execCbceBlock p s = _ at h
    obtain ⟨_, _, _, _, _, _, h⟩ := cbceBlockOp_next h
    cases h; exact .of_eq rfl rfl rfl
  | cbcdBlock c =>
    change execCbcdBlock c s = _ at h
    obtain ⟨_, _, _, _, _, _, h⟩ := cbcdBlockOp_next h
    cases h; exact .of_eq rfl rfl rfl

/-- A `DAT` emits one `OUT`. -/
theorem execDat_appends {b : Block} {s t : State} (h : execDat b s = .next t) :
    ∃ y, Appends [.out y] s t := by
  obtain ⟨-, -, _, _, _, _, -, -, -, -, -, ⟨-, rfl⟩ | ⟨-, rfl⟩⟩ := execDat_next h <;> exact ⟨_, rfl, rfl, rfl⟩

/-- Settles O50: every instruction is a header, `DAT`, `END`, `RESET` or an internal operation. -/
theorem tablesConstantAndLogGrows : Obligations.TablesConstantAndLogGrows := by
  intro i s t h
  suffices hs : ∃ new, Appends new s t ∧
      (new.length ≤ 1 ∨ (new.length = 2 ∧ ∃ key16 block, i = .encb key16 block ∨ i = .decb key16 block)) by
    obtain ⟨new, ⟨htables, hinput, hlog⟩, hlen⟩ := hs
    exact ⟨htables, hinput, new, hlog, hlen⟩
  cases i with
  | encb key16 block =>
    obtain ⟨new, hnew, hlen⟩ := exec_header_appends (o := .encb) h
    exact ⟨new, hnew, hlen.imp_right fun hl => ⟨hl.2, key16, block, .inl rfl⟩⟩
  | decb key16 block =>
    obtain ⟨new, hnew, hlen⟩ := exec_header_appends (o := .decb) h
    exact ⟨new, hnew, hlen.imp_right fun hl => ⟨hl.2, key16, block, .inr rfl⟩⟩
  | enccbc key16 iv =>
    obtain ⟨new, hnew, hlen⟩ := exec_header_appends (o := .enccbc) h
    exact ⟨new, hnew, .inl (by simpa using hlen)⟩
  | deccbc key16 iv =>
    obtain ⟨new, hnew, hlen⟩ := exec_header_appends (o := .deccbc) h
    exact ⟨new, hnew, .inl (by simpa using hlen)⟩
  | dat b =>
    obtain ⟨y, hy⟩ := execDat_appends h
    exact ⟨_, hy, .inl le_rfl⟩
  | endReq =>
    obtain ⟨-, -, rfl⟩ := execEndReq_next h
    exact ⟨_, ⟨rfl, rfl, rfl⟩, .inl le_rfl⟩
  | reset => cases h; exact ⟨[], .of_eq rfl rfl rfl, .inl (Nat.zero_le 1)⟩
  | perm | rol5 | ks | sbox | f | fk | sw | crypt | enc | dec | cbceBlock | cbcdBlock =>
    exact ⟨[], exec_internal_appends rfl h, .inl (Nat.zero_le 1)⟩

/-! ### The subkey cache (R25, R187) -/

/-- Settles O23: a hit returns an entry of its own key, a miss stores one. -/
theorem subkeyCacheUnobservable : Obligations.SubkeyCacheUnobservable := by
  intro t c key hc
  rw [ksCached]
  split
  next e he =>
    have hkey : e.1 = key := by simpa using List.find?_some he
    exact ⟨hkey ▸ hc e (List.mem_of_find?_eq_some he), hc⟩
  next => exact ⟨rfl, List.forall_mem_cons.2 ⟨rfl, hc⟩⟩

/-! ### Reset and power-up (R28, R180) -/

/-- The default tables are well-formed. -/
theorem tablesStd_wellFormed : tablesStd.wellFormed = true := by decide

/-- A power-up is in row 1 of R26 and holds no subkeys. -/
theorem powerUp_valid {t : Tables} (ht : t.wellFormed = true) :
    (State.powerUp t).valid = true ∧ (State.powerUp t).subkeysPaired :=
  ⟨(State.valid_iff _).2 ⟨ht, .inl rfl⟩, .inl ⟨rfl, rfl⟩⟩

/-- Settles O47: the reset state is the power-up of the default tables. -/
theorem validityAtReset : Obligations.ValidityAtReset := by
  obtain ⟨hv, hp⟩ := powerUp_valid tablesStd_wellFormed
  exact ⟨⟨rfl, rfl, rfl, rfl, rfl, rfl, rfl, rfl⟩, rfl, hv, hp, fun _ => powerUp_valid⟩

end Sys2Proof.Machine
end

section
namespace Sys2Proof.Machine

/-! ### The fine steps and row 3 of R26 (R150 to R154, log entry 8) -/

/-- The operations whose `CHAIN` bit is set are those of row 2 of R26. -/
theorem opChains_iff (op : OpCode) : opChains op = true ↔ op = 2#2 ∨ op = 3#2 := by
  revert op
  decide

/-- Row 3 of R26, register by register: the registers of an open request, or of a single block. -/
theorem midBlock_iff (s : State) (m : Micro) :
    (FineState.mk s m).midBlock = true ↔ ∃ op k1 k2, s.op = some op ∧ s.k1 = some k1 ∧ s.k2 = some k2 ∧
      ((opChains op = true ∧ s.mode = .cbc ∧ ∃ fb, s.fb = some fb) ∨
        (opChains op = false ∧ s.mode = .idle ∧ s.fb = none ∧ s.idx = 0)) := by
  cases hop : s.op with
  | none => simp [FineState.midBlock, hop]
  | some op =>
    cases hm : s.mode <;> cases hc : opChains op <;>
      simp [FineState.midBlock, hop, hm, hc, Option.isSome_iff_exists, and_assoc]

/-- The fine invariant with a block pending. -/
theorem fineValid_pending (s : State) (b : Block) :
    (FineState.mk s (.pending b)).valid = true ↔
      s.tables.wellFormed = true ∧ (FineState.mk s (.pending b)).midBlock = true ∧ s.phase = .none ∧
        s.roundS = none := by
  simp [FineState.valid, and_assoc]

/-- The fine invariant inside the cipher. -/
theorem fineValid_inside (s : State) (b : Block) :
    (FineState.mk s (.inside b)).valid = true ↔
      s.tables.wellFormed = true ∧ (FineState.mk s (.inside b)).midBlock = true ∧ s.phase ≠ .none ∧
        ∃ x, s.roundS = some x := by
  simp [FineState.valid, and_assoc, Option.isSome_iff_exists]

/-- The fine invariant where round 2 has run. -/
theorem fineValid_ready (s : State) (b : Block) :
    (FineState.mk s (.ready b)).valid = true ↔
      s.tables.wellFormed = true ∧ (FineState.mk s (.ready b)).midBlock = true ∧ s.phase = .r2 ∧
        ∃ x, s.roundS = some x := by
  simp [FineState.valid, and_assoc, Option.isSome_iff_exists]

/-- The fine invariant where the block is handed back. -/
theorem fineValid_unloaded (s : State) (b y : Block) :
    (FineState.mk s (.unloaded b y)).valid = true ↔
      s.tables.wellFormed = true ∧ (FineState.mk s (.unloaded b y)).midBlock = true ∧ s.phase = .none ∧
        s.roundS = none := by
  simp [FineState.valid, and_assoc]

/-! #### With nothing in progress -/

/-- What a settled outcome answers is the coarse state, nothing in progress. -/
theorem settled_next {o : Host.Outcome State Fault Refusal} {g : FineState} (h : settled o = .next g) :
    ∃ t, o = .next t ∧ g = ⟨t, .idle⟩ := by
  cases o with
  | next t => cases h; exact ⟨t, rfl, rfl⟩
  | fault | refused => cases h

/-- An instruction of the coarse machine that a fine step runs whole keeps the invariant. -/
theorem settled_valid {e : HostEvent} {s : State} {g : FineState} (hv : s.valid = true)
    (h : settled (exec (decodeEvent e) s) = .next g) : g.valid = true := by
  obtain ⟨t, ht, rfl⟩ := settled_next h
  exact valid_of_eventEffect hv (exec_decodeEvent_effect e ht)

/-- A single-block header ends in the violation step or leaves its block pending. -/
theorem fineHeader_valid {op : OpCode} (hop : opChains op = false) {key16 : KeyContainer} {block : Block} {s : State}
    {g : FineState} (hv : s.valid = true) (h : fineHeader op key16 block s = .next g) : g.valid = true := by
  obtain ⟨hp, hm, ⟨-, rfl⟩ | ⟨-, h⟩⟩ := acceptHeader_next h
  · exact valid_of_eventEffect hv (.violated hp hm)
  · cases h
    obtain ⟨hw, -⟩ := s.valid_iff.1 hv
    obtain ⟨-, -, -, -, -, hS, hfb, hidx⟩ := s.closed_iff.1 (closed_of_valid hv hm)
    have hmid : (FineState.mk (latchHeader op (keyLow key16) s) (.pending block)).midBlock = true :=
      (midBlock_iff _ _).2 ⟨op, _, _, rfl, rfl, rfl, .inr ⟨hop, hm, hfb, hidx⟩⟩
    exact (fineValid_pending _ _).2 ⟨hw, hmid, hp, hS⟩

/-- A `DAT` leaves its block pending in row 3 of R26. -/
theorem fineAccept_dat_valid {b : Block} {s : State} {g : FineState} (hv : s.valid = true)
    (h : fineAccept (.dat b) s = .next g) : g.valid = true := by
  obtain ⟨hp, hm, h⟩ := acceptInRequest_next h
  cases h
  obtain ⟨hw, -⟩ := s.valid_iff.1 hv
  obtain ⟨-, -, hop, ⟨k1, h1⟩, ⟨k2, h2⟩, hS, hfb⟩ := s.betweenBlocks_iff.1 (betweenBlocks_of_valid hv hm)
  have hmid : (FineState.mk s (.pending b)).midBlock = true := by
    obtain hop | hop := hop <;> exact (midBlock_iff _ _).2 ⟨_, k1, k2, hop, h1, h2, .inl ⟨rfl, hm, hfb⟩⟩
  exact (fineValid_pending _ _).2 ⟨hw, hmid, hp, hS⟩

/-- A header taken by a fine step keeps the invariant. -/
theorem fineAccept_hdr_valid {w : HeaderWord} {s : State} {g : FineState} (hv : s.valid = true)
    (h : fineAccept (decodeEvent (.hdr w)) s = .next g) : g.valid = true := by
  have hi : decodeEvent (.hdr w) = (Operation.ofCode (headerOp w)).toInstr (headerKey16 w) (headerArg w) := rfl
  cases ho : Operation.ofCode (headerOp w) with
  | encb => rw [hi, ho] at h; exact fineHeader_valid (op := 0#2) rfl hv h
  | decb => rw [hi, ho] at h; exact fineHeader_valid (op := 1#2) rfl hv h
  | enccbc | deccbc =>
    refine settled_valid (e := .hdr w) hv ?_
    rw [hi, ho] at h ⊢
    exact h

/-- The event taken with nothing in progress keeps the invariant. -/
theorem fineAccept_valid {e : HostEvent} {s : State} {g : FineState} (hv : s.valid = true)
    (h : fineAccept (decodeEvent e) s = .next g) : g.valid = true := by
  cases e with
  | hdr w => exact fineAccept_hdr_valid hv h
  | dat b => exact fineAccept_dat_valid hv h
  | endReq => exact settled_valid (e := .endReq) hv h
  | reset => exact settled_valid (e := .reset) hv h

/-! #### With a rule in progress: each fine step is enabled, and ends in its own row -/

/-- An encrypting request hands `b XOR FB` to the cipher. -/
theorem cipherInput_fed {σ : Type} {op : OpCode} {s : State} (hop : s.op = some op)
    (hd : (opChains op && !opDecrypts op) = true) {fb : Block} (hfb : s.fb = some fb) (b : Block)
    (use : Block → Host.Outcome σ Fault Refusal) : cipherInput b s use = use (b ^^^ fb) := by
  simp only [cipherInput, readReg, hop, hd, hfb, if_true]

/-- Every other operation hands the block itself to the cipher. -/
theorem cipherInput_plain {σ : Type} {op : OpCode} {s : State} (hop : s.op = some op)
    (hd : (opChains op && !opDecrypts op) = false) (b : Block) (use : Block → Host.Outcome σ Fault Refusal) :
    cipherInput b s use = use b := by
  simp only [cipherInput, readReg, hop, hd, Bool.false_eq_true, if_false]

/-- In row 3 of R26 the block handed to the cipher can be read. -/
theorem cipherInput_midBlock {m : Micro} {s : State} (hmid : (FineState.mk s m).midBlock = true) (b : Block)
    (use : Block → Host.Outcome FineState Fault Refusal) : ∃ x, cipherInput b s use = use x := by
  obtain ⟨op, -, -, hop, -, -, hreq⟩ := (midBlock_iff _ _).1 hmid
  cases hd : opChains op && !opDecrypts op with
  | false => exact ⟨b, cipherInput_plain hop hd b use⟩
  | true =>
    obtain ⟨-, -, fb, hfb⟩ | ⟨hc, -⟩ := hreq
    · exact ⟨b ^^^ fb, cipherInput_fed hop hd hfb b use⟩
    · rw [hc] at hd
      cases hd

/-- The load is enabled, and leaves `S` full and `PHASE` at round 1 (R150). -/
theorem fineLoad_valid {b : Block} {s : State} (hv : (FineState.mk s (.pending b)).valid = true) :
    ∃ g, fineLoad b s = .next g ∧ g.valid = true := by
  obtain ⟨hw, hmid, hp, -⟩ := (fineValid_pending s b).1 hv
  rw [fineLoad, if_neg (not_not.2 hp)]
  obtain ⟨x, hx⟩ := cipherInput_midBlock hmid b _
  exact ⟨_, hx, (fineValid_inside _ _).2 ⟨hw, hmid, Phase.noConfusion, _, rfl⟩⟩

/-- Round 1 and the swap, on registers that hold values (R151). -/
theorem fineRound_first (b : Block) {s : State} {op : OpCode} {k1 k2 : Subkey} {x : Block} (hop : s.op = some op)
    (h1 : s.k1 = some k1) (h2 : s.k2 = some k2) (hx : s.roundS = some x) (hp : s.phase = .r1) :
    fineRound b s = .next ⟨{ s with
      roundS := some (cryptRound1 s.tables x (firstSubkey op k1 k2)), phase := .r2 }, .inside b⟩ := by
  simp only [fineRound, readSubkeys, readReg, hop, h1, h2, hx, hp]

/-- Round 2, on registers that hold values (R152). -/
theorem fineRound_second (b : Block) {s : State} {op : OpCode} {k1 k2 : Subkey} {x : Block} (hop : s.op = some op)
    (h1 : s.k1 = some k1) (h2 : s.k2 = some k2) (hx : s.roundS = some x) (hp : s.phase = .r2) :
    fineRound b s = .next ⟨{ s with
      roundS := some (cryptRound2 s.tables x (secondSubkey op k1 k2)) }, .ready b⟩ := by
  simp only [fineRound, readSubkeys, readReg, hop, h1, h2, hx, hp]

/-- A round is enabled where `PHASE` names it: round 1 leaves round 2 to come (R151), round 2 the result (R152). -/
theorem fineRound_valid {b : Block} {s : State} (hv : (FineState.mk s (.inside b)).valid = true) :
    ∃ g, fineRound b s = .next g ∧ g.valid = true := by
  obtain ⟨hw, hmid, hp, x, hx⟩ := (fineValid_inside s b).1 hv
  obtain ⟨op, k1, k2, hop, h1, h2, -⟩ := (midBlock_iff _ _).1 hmid
  cases hph : s.phase with
  | none => exact absurd hph hp
  | r1 =>
    exact ⟨_, fineRound_first b hop h1 h2 hx hph,
      (fineValid_inside _ _).2 ⟨hw, hmid, Phase.noConfusion, _, rfl⟩⟩
  | r2 =>
    exact ⟨_, fineRound_second b hop h1 h2 hx hph, (fineValid_ready _ _).2 ⟨hw, hmid, hph, _, rfl⟩⟩

/-- The unload, where round 2 has left its result (R153). -/
theorem fineUnload_some (b : Block) {s : State} {x : Block} (hx : s.roundS = some x) :
    fineUnload b s = .next ⟨leaveCipher s, .unloaded b (cryptUnload s.tables x)⟩ := by
  rw [fineUnload, hx, readReg]

/-- The unload is enabled, and leaves `S` and `PHASE` at rest (R153). -/
theorem fineUnload_valid {b : Block} {s : State} (hv : (FineState.mk s (.ready b)).valid = true) :
    ∃ g, fineUnload b s = .next g ∧ g.valid = true := by
  obtain ⟨hw, hmid, -, x, hx⟩ := (fineValid_ready s b).1 hv
  exact ⟨_, fineUnload_some b hx, (fineValid_unloaded _ _ _).2 ⟨hw, hmid, rfl, rfl⟩⟩

/-- The end of a block of CBC decryption (R146). -/
theorem fineFinish_decrypts (b y : Block) {s : State} {op : OpCode} {fb : Block} (hop : s.op = some op)
    (hc : opChains op = true) (hd : opDecrypts op = true) (hfb : s.fb = some fb) :
    fineFinish b y s = .next ⟨emit (.out (y ^^^ fb)) (chainOn b s), .idle⟩ := by
  simp only [fineFinish, readReg, hop, hc, hd, hfb, if_true]

/-- The end of a block of CBC encryption (R145). -/
theorem fineFinish_encrypts (b y : Block) {s : State} {op : OpCode} (hop : s.op = some op) (hc : opChains op = true)
    (hd : opDecrypts op = false) : fineFinish b y s = .next ⟨emit (.out y) (chainOn y s), .idle⟩ := by
  simp only [fineFinish, readReg, hop, hc, hd, Bool.false_eq_true, if_true, if_false]

/-- The end of a single block (R142). -/
theorem fineFinish_single (b y : Block) {s : State} {op : OpCode} (hop : s.op = some op) (hc : opChains op = false) :
    fineFinish b y s = .next ⟨answerSingle y s, .idle⟩ := by
  simp only [fineFinish, readReg, hop, hc, Bool.false_eq_true, if_false]

/-- The end of the rule is enabled: a CBC block is chained on (R127, R129), a single block answered (R142). -/
theorem fineFinish_valid {b y : Block} {s : State} (hv : (FineState.mk s (.unloaded b y)).valid = true) :
    ∃ g, fineFinish b y s = .next g ∧ g.valid = true := by
  obtain ⟨hw, hmid, hp, hS⟩ := (fineValid_unloaded s b y).1 hv
  obtain ⟨op, k1, k2, hop, h1, h2, ⟨hc, hm, fb, hfb⟩ | ⟨hc, hm, hfb, hidx⟩⟩ := (midBlock_iff _ _).1 hmid
  · have hrow : s.op = some 2#2 ∨ s.op = some 3#2 := by simpa [hop] using (opChains_iff op).1 hc
    have hchained : ∀ out c, (emit (.out out) (chainOn c s)).valid = true := fun out c =>
      (State.valid_iff _).2 ⟨hw, .inr ((State.betweenBlocks_iff _).2
        ⟨hm, hp, hrow, ⟨k1, h1⟩, ⟨k2, h2⟩, hS, c, rfl⟩)⟩
    cases hd : opDecrypts op with
    | true => exact ⟨_, fineFinish_decrypts b y hop hc hd hfb, hchained (y ^^^ fb) b⟩
    | false => exact ⟨_, fineFinish_encrypts b y hop hc hd, hchained y y⟩
  · have hanswered : (answerSingle y s).valid = true :=
      (State.valid_iff _).2 ⟨hw, .inl ((State.closed_iff _).2 ⟨hm, hp, rfl, rfl, rfl, rfl, hfb, hidx⟩)⟩
    exact ⟨_, fineFinish_single b y hop hc, hanswered⟩

/-- With a rule in progress a fine step is enabled and keeps the invariant. -/
theorem fineStep_inProgress {f : FineState} (hv : f.valid = true) (hm : f.micro ≠ .idle) :
    ∃ g, fineStep f = .next g ∧ g.valid = true := by
  obtain ⟨s, m⟩ := f
  cases m with
  | idle => exact absurd rfl hm
  | pending b => exact fineLoad_valid hv
  | inside b => exact fineRound_valid hv
  | ready b => exact fineUnload_valid hv
  | unloaded b y => exact fineFinish_valid hv

/-- With nothing in progress a fine step waits or takes an event, and keeps the invariant. -/
theorem fineStep_idle {s : State} (hv : s.valid = true) {g : FineState} (h : fineStep ⟨s, .idle⟩ = .next g) :
    g.valid = true := by
  simp only [fineStep] at h
  split at h
  next => cases h; exact hv
  next e rest _ => exact fineAccept_valid (s := { s with input := rest }) hv h

/-- Settles O57: with nothing in progress by the coarse effects of an event, else one enabled fine step for each
micro-step. -/
theorem fineValidityKept : Obligations.FineValidityKept := by
  rintro ⟨s, m⟩ hv
  by_cases hm : m = .idle
  · subst hm
    exact ⟨fun _ h => fineStep_idle hv h, fun h => absurd rfl h⟩
  · obtain ⟨g, hg, hgv⟩ := fineStep_inProgress hv hm
    refine ⟨fun g' h => ?_, fun _ => ⟨g, hg⟩⟩
    rw [hg] at h
    cases h
    exact hgv

end Sys2Proof.Machine
end

/-! ## Events, runs and requests (R40, R43, R155, R185, R188)

A step and the next event come first; then a request served whole, from its header to its `DONE`, and from it that
requests do not interfere; last the decryption of all blocks at once. -/

section
namespace Sys2Proof.Machine

/-! ### One step and the next event -/

/-- A step with an event waiting. -/
theorem step_cons {s : State} {e : HostEvent} {rest : List HostEvent} (h : s.input = e :: rest) :
    step s = exec (decodeEvent e) { s with input := rest } := by
  rw [step, h]

/-- A step with no event waiting. -/
theorem step_nil {s : State} (h : s.input = []) : step s = .next s := by
  rw [step, h]

/-- The header instructions are well-formed whatever their operands (R56). -/
theorem toInstr_wellFormed (o : Operation) (key16 : KeyContainer) (arg : Block) :
    (o.toInstr key16 arg).wellFormed = true := by
  cases o <;> rfl

/-- No event of the port reads as an ill-formed instruction (R56). -/
theorem decodeEvent_wellFormed (e : HostEvent) : (decodeEvent e).wellFormed = true := by
  cases e with
  | hdr h => exact toInstr_wellFormed _ _ _
  | dat | endReq | reset => rfl

/-- A word that reads as an instruction is the word of an event that decodes to it. -/
theorem decodeTableWord_eq_some {nbits w : Nat} {i : Instr} (h : decodeTableWord nbits w = some i) :
    ∃ e, decodeWord nbits w = .ok e ∧ decodeEvent e = i := by
  rw [decodeTableWord] at h
  split at h
  next e he => exact ⟨e, he, Option.some.inj h⟩
  next => cases h

/-- The event of a word is placed before all that the host has queued. -/
theorem withFetchWord_of_ok (s : State) {nbits w : Nat} {e : HostEvent} (h : decodeWord nbits w = .ok e) :
    s.withFetchWord nbits w = { s with input := e :: s.input } := by
  rw [State.withFetchWord, h]

/-- Settles O6: a step takes the head of the queue, and `withFetchWord` writes that head. -/
theorem stepRunsDecodedEvent : Obligations.StepRunsDecodedEvent := by
  refine ⟨fun s e rest hin => ⟨decodeEvent_wellFormed e, step_cons hin⟩, fun s hin => step_nil hin, ?_⟩
  intro s nbits w i h
  obtain ⟨e, he, rfl⟩ := decodeTableWord_eq_some h
  rw [withFetchWord_of_ok s he]
  exact step_cons rfl

/-! ### The header of a request -/

/-- The `OP` value of an operation names it (R52). -/
theorem ofCode_code (o : Operation) : Operation.ofCode o.code = o := by
  cases o <;> rfl

/-- A header word reads as the instruction its fields were taken from (R51, R54). -/
theorem decodeHeader_encodeHeader (o : Operation) (arg : Block) (key16 : KeyContainer) :
    decodeHeader (encodeHeader o.code arg key16) = o.toInstr key16 arg := by
  obtain ⟨hop, harg, hkey⟩ := Laws.EncodedFields.encodeHeader_fields o.code arg key16
  rw [decodeHeader, hop, harg, hkey, ofCode_code]

/-- A container with its upper six bits zero holds a 10-bit key (R50). -/
theorem keyTooWide_eq_false {key16 : KeyContainer} (h : keyHigh key16 = 0#6) : keyTooWide key16 = false := by
  simp [keyTooWide, h]

/-- With no request open the header of a 10-bit key is accepted (R141). -/
theorem step_header {s : State} {o : Operation} {key16 : KeyContainer} {arg : Block} {rest : List HostEvent}
    (hm : s.mode = .idle) (hp : s.phase = .none) (hk : keyHigh key16 = 0#6)
    (hin : s.input = .hdr (encodeHeader o.code arg key16) :: rest) :
    step s = .next (acceptedState o arg (keyLow key16) { s with input := rest }) := by
  rw [step_cons hin, decodeEvent, decodeHeader_encodeHeader, exec_header]
  exact acceptHeader_accepts _ _ hm hp (keyTooWide_eq_false hk)

/-! ### The blocks of a CBC request, in either direction -/

/-- A CBC request is open under `op` and the two subkeys, and `fb` is its chaining state (row 2 of R26). -/
structure OpenRequest (op : OpCode) (k1 k2 : Subkey) (fb : Block) (s : State) : Prop where
  mode : s.mode = .cbc
  phase : s.phase = .none
  op : s.op = some op
  k1 : s.k1 = some k1
  k2 : s.k2 = some k2
  fb : s.fb = some fb

/-- What one block gives: the block that is emitted, and the next feedback (R127, R129). -/
def chainBlock (decrypts : Bool) (t : Tables) (k1 k2 : Subkey) (fb b : Block) : Block × Block :=
  match decrypts with
  | true => (dec t b k1 k2 ^^^ fb, b)
  | false => (enc t (b ^^^ fb) k1 k2, enc t (b ^^^ fb) k1 k2)

/-- `CBCE` or `CBCD` from a feedback on, as the direction says (R128, R130). -/
def chainFrom (decrypts : Bool) (t : Tables) (k1 k2 : Subkey) : Block → List Block → List Block :=
  match decrypts with
  | true => cbcdFrom t k1 k2
  | false => cbceFrom t k1 k2

/-- No block, in either direction. -/
theorem chainFrom_nil (decrypts : Bool) (t : Tables) (k1 k2 : Subkey) (fb : Block) :
    chainFrom decrypts t k1 k2 fb [] = [] := by
  cases decrypts <;> rfl

/-- The first block, and the rest from the feedback it leaves, in either direction. -/
theorem chainFrom_cons (decrypts : Bool) (t : Tables) (k1 k2 : Subkey) (fb b : Block) (bs : List Block) :
    chainFrom decrypts t k1 k2 fb (b :: bs) =
      (chainBlock decrypts t k1 k2 fb b).1 ::
        chainFrom decrypts t k1 k2 (chainBlock decrypts t k1 k2 fb b).2 bs := by
  cases decrypts <;> rfl

section
variable {op : OpCode} {k1 k2 : Subkey} {fb : Block} {s : State}

/-- `DAT` in an open request is one block of the direction its `OP` says, and its `OUT` (R145, R146). -/
theorem execDat_openRequest (hs : OpenRequest op k1 k2 fb s) (hc : opChains op = true) (b : Block) :
    execDat b s = .next (emit (.out (chainBlock (opDecrypts op) s.tables k1 k2 fb b).1)
      (chainOn (chainBlock (opDecrypts op) s.tables k1 k2 fb b).2 (leaveCipher s))) := by
  obtain rfl | rfl := (opChains_iff op).1 hc
  · rw [execDat_encrypts b hs.mode hs.phase hs.op, cbceBlockOp_some hs.fb hs.k1 hs.k2]
    rfl
  · rw [execDat_decrypts b hs.mode hs.phase hs.op, cbcdBlockOp_some hs.fb hs.k1 hs.k2]
    rfl

/-- What the host has queued is no part of an open request. -/
theorem OpenRequest.withInput (hs : OpenRequest op k1 k2 fb s) (queue : List HostEvent) :
    OpenRequest op k1 k2 fb { s with input := queue } :=
  ⟨hs.mode, hs.phase, hs.op, hs.k1, hs.k2, hs.fb⟩

/-- The state after one block of an open request: `io.1` emitted, `io.2` the feedback, `queue` still to be taken. -/
def blockDone (io : Block × Block) (queue : List HostEvent) (s : State) : State :=
  emit (.out io.1) (chainOn io.2 (leaveCipher { s with input := queue }))

/-- A request stays open over a block. -/
theorem OpenRequest.blockDone (hs : OpenRequest op k1 k2 fb s) (io : Block × Block) (queue : List HostEvent) :
    OpenRequest op k1 k2 io.2 (blockDone io queue s) :=
  ⟨hs.mode, rfl, hs.op, hs.k1, hs.k2, rfl⟩

/-- A step that takes a `DAT` of an open request. -/
theorem step_dat {b : Block} {queue : List HostEvent} (hs : OpenRequest op k1 k2 fb s) (hc : opChains op = true)
    (hin : s.input = .dat b :: queue) :
    step s = .next (blockDone (chainBlock (opDecrypts op) s.tables k1 k2 fb b) queue s) :=
  (step_cons hin).trans (execDat_openRequest (hs.withInput queue) hc b)

/-- `END` in an open request closes it (R147). -/
theorem step_endReq {queue : List HostEvent} (hs : OpenRequest op k1 k2 fb s) (hin : s.input = .endReq :: queue) :
    step s = .next (closeChain { s with input := queue }) := by
  rw [step_cons hin]
  exact acceptInRequest_accepts _ _ hs.mode hs.phase

end

/-- The state in which a request leaves the machine: row 1 of R26, `outs` emitted and `rest` still queued. -/
def served (outs : List OutEvent) (rest : List HostEvent) (s : State) : State :=
  { s with
    mode := .idle, phase := .none, op := none, k1 := none, k2 := none, roundS := none, fb := none, idx := 0
    outlog := s.outlog ++ outs, input := rest }

/-- From a state with no request open, only `OUTLOG` and the queue have changed. -/
theorem served_of_closed {s : State} (hs : s.closed = true) (outs : List OutEvent) (rest : List HostEvent) :
    served outs rest s = { s with outlog := s.outlog ++ outs, input := rest } := by
  obtain ⟨hm, hp, hop, h1, h2, hS, hfb, hidx⟩ := s.closed_iff.1 hs
  rw [served, hm, hp, hop, h1, h2, hS, hfb, hidx]

/-- The end of a request emits `DONE(0)` and leaves the rest queued. -/
theorem closeChain_eq_served {s : State} (hp : s.phase = .none) (rest : List HostEvent) :
    closeChain { s with input := rest } = served [.done .ok] rest s := by
  simp [served, closeChain, emit, hp]

/-- A block emitted on the way stands before what is emitted after it. -/
theorem served_blockDone (io : Block × Block) (outs : List OutEvent) (rest queue : List HostEvent) (s : State) :
    served outs rest (blockDone io queue s) = served (.out io.1 :: outs) rest s := by
  simp [served, blockDone]

/-- The rest of an open CBC request, its blocks and its `END`, is answered by the chained blocks and `DONE(0)`
(R145 to R147). -/
theorem run_openRequest {op : OpCode} {k1 k2 : Subkey} (hc : opChains op = true) (blocks : List Block)
    (rest : List HostEvent) {fb : Block} {s : State} (hs : OpenRequest op k1 k2 fb s)
    (hin : s.input = blocks.map .dat ++ .endReq :: rest) :
    core.run (blocks.length + 1) s =
      .next (served ((chainFrom (opDecrypts op) s.tables k1 k2 fb blocks).map .out ++ [.done .ok]) rest s) := by
  induction blocks generalizing fb s with
  | nil =>
    rw [chainFrom_nil, List.length_nil, run_one (step_endReq hs hin), closeChain_eq_served hs.phase]
    rfl
  | cons b bs ih =>
    rw [List.length_cons, run_succ (step_dat hs hc hin), chainFrom_cons, List.map_cons, List.cons_append,
      ← served_blockDone]
    exact ih (hs.blockDone _ _) rfl

/-! ### A whole request -/

/-- A single-block request is its header (R47). -/
theorem requestEvents_single {o : Operation} (hc : chained o = false) (key16 : KeyContainer) (arg : Block)
    (blocks : List Block) : requestEvents o key16 arg blocks = [.hdr (encodeHeader o.code arg key16)] := by
  simp [requestEvents, hc]

/-- A CBC request is its header, its blocks and an `END` (R47). -/
theorem requestEvents_chained {o : Operation} (hc : chained o = true) (key16 : KeyContainer) (arg : Block)
    (blocks : List Block) :
    requestEvents o key16 arg blocks = .hdr (encodeHeader o.code arg key16) :: (blocks.map .dat ++ [.endReq]) := by
  simp [requestEvents, hc]

/-- An accepted header of a CBC operation has opened the request (R144). -/
theorem acceptedState_chained {o : Operation} (hc : chained o = true) (arg : Block) (key : Key) (s : State) :
    acceptedState o arg key s = openChain arg (latchHeader o.code key s) := by
  cases o with
  | encb | decb => cases hc
  | enccbc | deccbc => rfl

/-- The answer to a CBC request (R155), in either direction. -/
theorem serve_chained {o : Operation} (hc : chained o = true) (t : Tables) (key : Key) (arg : Block)
    (blocks : List Block) :
    serve t o key arg blocks =
      (chainFrom (opDecrypts o.code) t (ks t key).1 (ks t key).2 arg blocks).map .out ++ [.done .ok] := by
  cases o with
  | encb | decb => cases hc
  | enccbc | deccbc => rfl

/-- An accepted single-block header has served the whole request (R142, R155). -/
theorem acceptedState_single {o : Operation} (hc : chained o = false) (arg : Block) (key : Key)
    (blocks : List Block) {s : State} (hs : s.closed = true) (rest : List HostEvent) :
    acceptedState o arg key { s with input := rest } = served (serve s.tables o key arg blocks) rest s := by
  obtain ⟨hm, -, -, -, -, -, hfb, hidx⟩ := s.closed_iff.1 hs
  cases o with
  | encb | decb => simp [acceptedState, served, serve, answerSingle, leaveCipher, latchHeader, emit, hm, hfb, hidx]
  | enccbc | deccbc => cases hc

/-- A single-block request, served with no request open. -/
theorem run_request_single {s : State} {o : Operation} {key16 : KeyContainer} {arg : Block} {rest : List HostEvent}
    (hc : chained o = false) (hs : s.closed = true) (hk : keyHigh key16 = 0#6)
    (hin : s.input = .hdr (encodeHeader o.code arg key16) :: rest) (blocks : List Block) :
    core.run 1 s = .next (served (serve s.tables o (keyLow key16) arg blocks) rest s) := by
  obtain ⟨hm, hp, -⟩ := s.closed_iff.1 hs
  rw [run_one (step_header hm hp hk hin)]
  exact congrArg _ (acceptedState_single hc arg (keyLow key16) blocks hs rest)

/-- A CBC request, served with no request open: the header, then its blocks and its `END`. -/
theorem run_request_chained {s : State} {o : Operation} {key16 : KeyContainer} {arg : Block} {blocks : List Block}
    {rest : List HostEvent} (hc : chained o = true) (hs : s.closed = true) (hk : keyHigh key16 = 0#6)
    (hin : s.input = .hdr (encodeHeader o.code arg key16) :: (blocks.map .dat ++ .endReq :: rest)) :
    core.run (blocks.length + 2) s = .next (served (serve s.tables o (keyLow key16) arg blocks) rest s) := by
  obtain ⟨hm, hp, -⟩ := s.closed_iff.1 hs
  rw [run_succ (step_header hm hp hk hin), acceptedState_chained hc, serve_chained hc]
  exact run_openRequest hc blocks rest ⟨rfl, hp, rfl, rfl, rfl, rfl⟩ rfl

/-- A request with a 10-bit key, served with no request open, is answered as R155 says and leaves every register as it
was. -/
theorem run_request {s : State} {o : Operation} {key16 : KeyContainer} {arg : Block} {blocks : List Block}
    {rest : List HostEvent} (hs : s.closed = true) (hk : keyHigh key16 = 0#6)
    (hin : s.input = requestEvents o key16 arg blocks ++ rest) :
    core.run (requestEvents o key16 arg blocks).length s =
      .next { s with outlog := s.outlog ++ serve s.tables o (keyLow key16) arg blocks, input := rest } := by
  rw [← served_of_closed hs]
  cases hc : chained o with
  | false =>
    rw [requestEvents_single hc] at hin ⊢
    exact run_request_single hc hs hk hin blocks
  | true =>
    rw [requestEvents_chained hc] at hin ⊢
    have hrun := run_request_chained (rest := rest) hc hs hk (by simpa using hin)
    simpa using hrun

/-- Settles O53: what a request emits is `serve`, a function of `TABLES` and the request alone. -/
theorem requestsDoNotInterfere : Obligations.RequestsDoNotInterfere := by
  intro s s' op key16 arg blocks rest rest' hs hs' ht hk hin hin'
  refine ⟨_, _, _, run_request hs hk hin, run_request hs' hk hin', rfl, ?_⟩
  rw [ht]

/-! ### Decryption of all blocks at once -/

/-- A chained decryption needs no block before it: each call has the ciphertext block, each XOR the feedback beside it
(R129). -/
theorem cbcdFrom_eq_zipWith (t : Tables) (k1 k2 : Subkey) (cs : List Block) (fb : Block) :
    cbcdFrom t k1 k2 fb cs = List.zipWith (fun c fb => dec t c k1 k2 ^^^ fb) cs (feedbacks cs fb) := by
  induction cs generalizing fb with
  | nil => rfl
  | cons c cs ih => rw [cbcdFrom, ih]; rfl

/-- Settles O30: `CBCD` is the independent calls and the later XORs, by induction on the blocks. -/
theorem parallelDecryptionUnobservable : Obligations.ParallelDecryptionUnobservable :=
  fun t cs key iv => (cbcdFrom_eq_zipWith t (ks t key).1 (ks t key).2 cs iv).symm

end Sys2Proof.Machine
end

/-! ## The encoding (R49 to R58)

The fields of a header word, as bits and as integers, come first; then the decoder and the encoder undo each other; last
the programs and the abstract requests that the port's events carry. -/

section
namespace Sys2Proof.Machine

/-! ### The fields of a header word -/

/-- All four `OP` values are defined, each the code of its operation (R52). -/
theorem code_ofCode (op : OpCode) : (Operation.ofCode op).code = op := by
  revert op; decide

/-- A header word is its three fields, `OP` high (R51). -/
theorem encodeHeader_headerFields (h : HeaderWord) :
    encodeHeader (headerOp h) (headerArg h) (headerKey16 h) = h := by
  have hhigh : headerOp h ++ headerArg h = h.extractLsb' 16 10 :=
    BitVec.extractLsb'_append_extractLsb'_eq_extractLsb' rfl
  have hall : h.extractLsb' 16 10 ++ headerKey16 h = h.extractLsb' 0 26 :=
    BitVec.extractLsb'_append_extractLsb'_eq_extractLsb' rfl
  rw [encodeHeader, hhigh, hall, BitVec.extractLsb'_eq_self]

/-- The header word of any `OP` reads as the operation of that `OP` (R52, R54). -/
theorem decodeHeader_encodeHeader_ofCode (op : OpCode) (arg : Block) (key16 : KeyContainer) :
    decodeHeader (encodeHeader op arg key16) = (Operation.ofCode op).toInstr key16 arg := by
  rw [← decodeHeader_encodeHeader, code_ofCode]

/-- The header word as an integer: each field shifted to its place (R51). -/
theorem encodeHeader_toNat (op : OpCode) (arg : Block) (key16 : KeyContainer) :
    (encodeHeader op arg key16).toNat = op.toNat * 2 ^ 24 + arg.toNat * 2 ^ 16 + key16.toNat := by
  rw [encodeHeader, BitVec.toNat_append, ← Nat.shiftLeft_add_eq_or_of_lt key16.isLt, BitVec.toNat_append,
    ← Nat.shiftLeft_add_eq_or_of_lt arg.isLt, Nat.shiftLeft_eq, Nat.shiftLeft_eq]
  omega

/-- `OP` is what stands above the lower 24 bits of the word (R51). -/
theorem headerOp_toNat (h : HeaderWord) : (headerOp h).toNat = h.toNat / 2 ^ 24 := by
  rw [headerOp, BitVec.extractLsb'_toNat, Nat.shiftRight_eq_div_pow]
  omega

/-- `ARG` by the arithmetic of the word's integer (R51). -/
theorem headerArg_eq_ofNat (h : HeaderWord) : headerArg h = BitVec.ofNat 8 (h.toNat / 2 ^ 16 % 2 ^ 8) := by
  apply BitVec.eq_of_toNat_eq
  rw [headerArg, BitVec.extractLsb'_toNat, Nat.shiftRight_eq_div_pow, BitVec.toNat_ofNat, Nat.mod_mod]

/-- The bits that must be zero, by the arithmetic of the container's integer (R50). -/
theorem keyHigh_toNat (key16 : KeyContainer) : (keyHigh key16).toNat = key16.toNat / 2 ^ 10 := by
  rw [keyHigh, BitVec.extractLsb'_toNat, Nat.shiftRight_eq_div_pow]
  omega

/-- The Key by the arithmetic of the container's integer (R50). -/
theorem keyLow_eq_ofNat (key16 : KeyContainer) : keyLow key16 = BitVec.ofNat 10 key16.toNat := by
  apply BitVec.eq_of_toNat_eq
  rw [keyLow, BitVec.extractLsb'_toNat, Nat.shiftRight_zero, BitVec.toNat_ofNat]

/-- `KEY16` is the lower 16 bits of the word (R51). -/
theorem headerKey16_toNat (h : HeaderWord) : (headerKey16 h).toNat = h.toNat % 2 ^ 16 := by
  rw [headerKey16, BitVec.extractLsb'_toNat, Nat.shiftRight_zero]

/-- The key of a word is too wide exactly if one of the bits 10 to 15 is set (R50). -/
theorem keyTooWide_headerKey16 (h : HeaderWord) :
    keyTooWide (headerKey16 h) = true ↔ h.toNat / 2 ^ 10 % 2 ^ 6 ≠ 0 := by
  rw [keyTooWide, bne_iff_ne, ne_eq, ← BitVec.toNat_inj, keyHigh_toNat, headerKey16_toNat, BitVec.toNat_ofNat]
  omega

/-- The Key of a word is its lower ten bits (R50, R51). -/
theorem keyLow_headerKey16 (h : HeaderWord) : keyLow (headerKey16 h) = BitVec.ofNat 10 (h.toNat % 2 ^ 10) := by
  apply BitVec.eq_of_toNat_eq
  rw [keyLow_eq_ofNat, headerKey16_toNat, BitVec.toNat_ofNat, BitVec.toNat_ofNat]
  omega

/-! ### The decoder and the encoder -/

/-- The encoding of a header instruction, whichever its operation. -/
theorem encode_toInstr (o : Operation) (key16 : KeyContainer) (arg : Block) :
    encode (o.toInstr key16 arg) = some (.hdr (encodeHeader o.code arg key16)) := by
  cases o <;> rfl

/-- A header word is the encoding of what it decodes to. -/
theorem encode_decodeHeader (h : HeaderWord) : encode (decodeHeader h) = some (.hdr h) := by
  rw [decodeHeader, encode_toInstr, code_ofCode, encodeHeader_headerFields]

/-- Settles O1: a header is read back from its fields, the other events carry their operand as it is, and an internal
operation has no event (R55). -/
theorem decodeOfEncodeIsIdentity : Obligations.DecodeOfEncodeIsIdentity := by
  intro i e _ h
  cases i with
  | encb key16 block => cases h; exact decodeHeader_encodeHeader .encb block key16
  | decb key16 block => cases h; exact decodeHeader_encodeHeader .decb block key16
  | enccbc key16 iv => cases h; exact decodeHeader_encodeHeader .enccbc iv key16
  | deccbc key16 iv => cases h; exact decodeHeader_encodeHeader .deccbc iv key16
  | dat | endReq | reset => cases h; rfl
  | perm | rol5 | ks | sbox | f | fk | sw | crypt | enc | dec | cbceBlock | cbcdBlock => cases h

/-- Settles O2: a header word is rebuilt from its fields, and the other events carry their operand as it is. -/
theorem encodeOfDecodeIsIdentity : Obligations.EncodeOfDecodeIsIdentity := by
  intro e
  refine ⟨?_, decodeEvent_wellFormed e⟩
  cases e with
  | hdr h => exact encode_decodeHeader h
  | dat | endReq | reset => rfl

/-- A header word given in 32 bits reads as what it decodes to (log entry 4). -/
theorem decodeTableWord_header (h : HeaderWord) : decodeTableWord 32 h.toNat = some (decodeHeader h) := by
  have hw : decodeWord 32 h.toNat = .ok (.hdr h) := by
    rw [decodeWord, if_pos (.inr rfl), if_pos h.isLt, BitVec.ofNat_toNat, BitVec.setWidth_eq]
  rw [decodeTableWord, hw]
  rfl

/-- Settles O3: the word is the concatenation of its fields, whose integer is their placed sum. -/
theorem headerWordIsPlacedFields : Obligations.HeaderWordIsPlacedFields := by
  intro op arg key16
  refine ⟨encodeHeader_toNat op arg key16, ?_⟩
  rw [← encodeHeader_toNat, decodeTableWord_header, decodeHeader_encodeHeader_ofCode]

/-- Settles O4: the check and each field of the word, by the arithmetic of its integer. -/
theorem headerClassification : Obligations.HeaderClassification := by
  intro h
  rw [classifyHeader, ← headerOp_toNat, ← headerArg_eq_ofNat, ← keyLow_headerKey16]
  refine if_congr (keyTooWide_headerKey16 h) rfl ?_
  rw [← code_ofCode (headerOp h), ofCode_code]
  cases Operation.ofCode (headerOp h) <;> rfl

/-- Settles O5: each header word is the placed sum of the fields it stands for. -/
theorem specWordsDecode : Obligations.SpecWordsDecode :=
  ⟨(headerWordIsPlacedFields 0#2 0x72#8 0x0282#16).2, (headerWordIsPlacedFields 1#2 0x81#8 0x0282#16).2,
    (headerWordIsPlacedFields 2#2 0xAA#8 0x01FD#16).2, (headerWordIsPlacedFields 3#2 0xAA#8 0x01FD#16).2,
    (headerWordIsPlacedFields 0#2 0x72#8 0x0682#16).2, rfl, rfl⟩

/-! ### Programs of requests (R57, R156, R177) -/

/-- The events of a program: those of its requests, one after another (R57). -/
def programEvents (requests : List (Operation × KeyContainer × Block × List Block)) : List HostEvent :=
  requests.flatMap fun r => requestEvents r.1 r.2.1 r.2.2.1 r.2.2.2

/-- The answers to a program, request by request (R155). -/
def programAnswers (t : Tables) (requests : List (Operation × KeyContainer × Block × List Block)) : List OutEvent :=
  requests.flatMap fun r => serve t r.1 (keyLow r.2.1) r.2.2.1 r.2.2.2

/-- The events of the first request stand before those of the rest. -/
theorem programEvents_cons (r : Operation × KeyContainer × Block × List Block)
    (rs : List (Operation × KeyContainer × Block × List Block)) :
    programEvents (r :: rs) = requestEvents r.1 r.2.1 r.2.2.1 r.2.2.2 ++ programEvents rs :=
  List.flatMap_cons

/-- The answer to the first request stands before those to the rest. -/
theorem programAnswers_cons (t : Tables) (r : Operation × KeyContainer × Block × List Block)
    (rs : List (Operation × KeyContainer × Block × List Block)) :
    programAnswers t (r :: rs) = serve t r.1 (keyLow r.2.1) r.2.2.1 r.2.2.2 ++ programAnswers t rs :=
  List.flatMap_cons

/-- A program of requests with 10-bit keys, served with no request open, is answered request by request, every event
consumed and every register as it was. -/
theorem run_program (requests : List (Operation × KeyContainer × Block × List Block)) {s : State}
    (hs : s.closed = true) (hk : ∀ r ∈ requests, keyHigh r.2.1 = 0#6) (hin : s.input = programEvents requests) :
    core.run (programEvents requests).length s =
      .next { s with outlog := s.outlog ++ programAnswers s.tables requests, input := [] } := by
  induction requests generalizing s with
  | nil =>
    have hnone : s.input = [] := hin
    have hkept : ({ s with outlog := s.outlog ++ [], input := [] } : State) = s := by
      rw [List.append_nil, ← hnone]
    exact congrArg _ hkept.symm
  | cons r rs ih =>
    obtain ⟨hr, hrs⟩ := List.forall_mem_cons.1 hk
    rw [programEvents_cons] at hin ⊢
    rw [List.length_append, run_add (run_request hs hr hin), programAnswers_cons, ← List.append_assoc]
    exact ih hs hrs rfl

/-- A log is free of violations exactly if its every `DONE` has code 0 (R177). -/
theorem State.noViolation_iff (s : State) : s.noViolation = true ↔ ∀ st, .done st ∈ s.outlog → st = .ok := by
  rw [State.noViolation, List.all_eq_true]
  constructor
  · intro h st hst
    simpa using h _ hst
  · intro h e he
    cases e with
    | out b => rfl
    | done st => simp [h st he]

/-- The answer to a request that is served ends in `DONE(0)` and holds no other `DONE` (R155). -/
theorem done_mem_serve {t : Tables} {o : Operation} {key : Key} {arg : Block} {blocks : List Block} {st : Status}
    (h : .done st ∈ serve t o key arg blocks) : st = .ok := by
  cases o <;> simpa [serve] using h

/-- No answer of a program is a violation. -/
theorem done_mem_programAnswers {t : Tables} {requests : List (Operation × KeyContainer × Block × List Block)}
    {st : Status} (h : .done st ∈ programAnswers t requests) : st = .ok := by
  obtain ⟨_, -, hr⟩ := List.mem_flatMap.1 h
  exact done_mem_serve hr

/-- A closed state with nothing queued ends a complete run (R156). -/
theorem complete_of_closed {s : State} (hs : s.closed = true) (hin : s.input = []) : s.complete = true := by
  obtain ⟨hm, hp, -⟩ := s.closed_iff.1 hs
  simp [State.complete, hin, hm, hp]

/-- Settles O52, by induction on the requests, each served whole before the next. -/
theorem programServedInOrder : Obligations.ProgramServedInOrder := by
  intro s requests hs hk hin
  rw [hin]
  refine ⟨_, run_program requests hs hk hin, complete_of_closed hs rfl, hs, rfl, fun hv => ?_⟩
  refine (State.noViolation_iff _).2 fun st hst => ?_
  obtain hold | hnew := List.mem_append.1 hst
  · exact s.noViolation_iff.1 hv st hold
  · exact done_mem_programAnswers hnew

/-! ### The abstract boundary and the port (R58, R155, R166) -/

/-- A request that the port carries has passed the checks, and its events are those of its fields. -/
theorem portEvents_eq_some {r : Request} {es : List HostEvent} (h : portEvents r = some es) :
    checkRequest r = .ok ∧ es = requestEvents r.op (BitVec.ofNat 16 r.key) r.arg.value (cutBlocks r.data) := by
  rw [portEvents] at h
  split at h
  next hok => exact ⟨hok, (Option.some.inj h).symm⟩
  next => cases h

/-- A request that passes the checks is answered as served (R155). -/
theorem answerRequest_of_ok (t : Tables) {r : Request} (h : checkRequest r = .ok) :
    answerRequest t r = serve t r.op (BitVec.ofNat 10 r.key) r.arg.value (cutBlocks r.data) := by
  rw [answerRequest, h]

/-- The container of a key below `2^10` has its upper six bits zero (R50). -/
theorem keyHigh_ofNat {n : Nat} (h : n < 2 ^ 10) : keyHigh (BitVec.ofNat 16 n) = 0#6 := by
  apply BitVec.eq_of_toNat_eq
  rw [keyHigh_toNat, BitVec.toNat_ofNat, BitVec.toNat_ofNat]
  omega

/-- The Key in the container of a number is that number's lower ten bits (R50). -/
theorem keyLow_ofNat (n : Nat) : keyLow (BitVec.ofNat 16 n) = BitVec.ofNat 10 n := by
  apply BitVec.eq_of_toNat_eq
  rw [keyLow_eq_ofNat, BitVec.toNat_ofNat, BitVec.toNat_ofNat, BitVec.toNat_ofNat]
  omega

/-- Settles O54: the checks make the key fit its container, and then the events are one request of the port. -/
theorem abstractRequestMatchesPort : Obligations.AbstractRequestMatchesPort := by
  intro s r es rest hs hport hin
  obtain ⟨hok, rfl⟩ := portEvents_eq_some hport
  obtain ⟨hkey, -⟩ := checkRequest_ok hok
  rw [run_request hs (keyHigh_ofNat hkey) hin, keyLow_ofNat, answerRequest_of_ok s.tables hok]

end Sys2Proof.Machine
end

/-! ## The tables and the permutation (R70 to R80, R84)

What a well-formed `TABLES` is and which records pass the configuration check come first; then what `PERM` selects, as a
function and as an instruction; last the machine built from a record. -/

section
namespace Sys2Proof

/-! ### Well-formed `TABLES` (R71 to R75) -/

/-- A table without repetition is an injective selection. -/
theorem distinctEntries_iff {n w : Nat} (t : IndexTable n w) :
    distinctEntries t = true ↔ Function.Injective (tabRead t) :=
  decide_eq_true_iff

/-- The rules R71 to R75 one by one. -/
theorem Tables.wellFormed_iff (t : Tables) :
    t.wellFormed = true ↔
      Function.Injective (tabRead t.p10) ∧ Function.Injective (tabRead t.p8) ∧ Function.Injective (tabRead t.ip) ∧
        Function.Injective (tabRead t.p4) ∧ Function.RightInverse (tabRead t.ipinv) (tabRead t.ip) ∧
        ∀ i, 4 ≤ (tabRead t.ep i).val := by
  simp only [Tables.wellFormed, Bool.and_eq_true, distinctEntries_iff, decide_eq_true_eq, and_assoc]
  rfl

/-- The entries of an index table, entry 0 first, are its reads. -/
theorem toList_eq_ofFn_tabRead {n w : Nat} (t : IndexTable n w) : t.toList = List.ofFn (tabRead t) :=
  List.ext_getElem (by simp) fun i _ _ => by simp [tabRead]

/-- The entries of an index table are cells of its source (R70). -/
theorem lt_of_mem_entries {n w j : Nat} {t : IndexTable n w} (h : j ∈ t.toList.map Fin.val) : j < w := by
  obtain ⟨i, -, rfl⟩ := List.mem_map.1 h
  exact i.isLt

/-- The entries of a named table are cells of its source (R31, R70). -/
theorem Tables.entries_lt (t : Tables) (name : TableName) {j : Nat} (h : j ∈ t.entries name) :
    j < name.sourceWidth := by
  cases name <;> exact lt_of_mem_entries h

/-! ### The configuration check (R70 to R77) -/

/-- A list passes the check of an index table exactly if it is that table's entries (R70). -/
theorem toIndexTable_eq_some_iff {n w : Nat} {l : List Nat} {t : IndexTable n w} :
    toIndexTable n w l = some t ↔ l = t.toList.map Fin.val :=
  ⟨fun h => (Machine.toIndexTable_entries h).symm, fun h => h ▸ Machine.toIndexTable_toList t⟩

/-- A list passes the check of an S-box row exactly if it is that row's entries (R76). -/
theorem toSBoxRow_eq_some_iff {l : List Nat} {row : Vector (BitVec 2) 4} :
    toSBoxRow l = some row ↔ l = row.toList.map BitVec.toNat := by
  constructor
  · intro h
    rw [toSBoxRow] at h
    split at h
    next t ht =>
      obtain rfl := Option.some.inj h
      rw [toIndexTable_eq_some_iff.1 ht, Vector.toList_map, List.map_map]
      exact List.map_congr_left fun x _ => (Nat.mod_eq_of_lt x.isLt).symm
    next => cases h
  · rintro rfl
    have ht : toIndexTable 4 4 (row.toList.map BitVec.toNat) = some (row.map BitVec.toFin) := by
      rw [toIndexTable_eq_some_iff, Vector.toList_map, List.map_map]
      rfl
    rw [toSBoxRow, ht]
    simp [Function.comp_def]

/-- A list of lists passes the check of an S-box exactly if it is that S-box's rows (R76). -/
theorem toSBoxTable_eq_some_iff {ls : List (List Nat)} {box : SBoxTable} :
    toSBoxTable ls = some box ↔ ls = box.toList.map fun row => row.toList.map BitVec.toNat := by
  constructor
  · intro h
    unfold toSBoxTable at h
    split at h
    next a b c d =>
      split at h
      next r0 r1 r2 r3 h0 h1 h2 h3 =>
        obtain rfl := Option.some.inj h
        rw [toSBoxRow_eq_some_iff.1 h0, toSBoxRow_eq_some_iff.1 h1, toSBoxRow_eq_some_iff.1 h2,
          toSBoxRow_eq_some_iff.1 h3]
        rfl
      next => cases h
    next => cases h
  · rintro rfl
    have hrow (row : Vector (BitVec 2) 4) : toSBoxRow (row.toList.map BitVec.toNat) = some row :=
      toSBoxRow_eq_some_iff.2 rfl
    obtain ⟨r0, r1, r2, r3, rfl⟩ : ∃ r0 r1 r2 r3, box = #v[r0, r1, r2, r3] :=
      ⟨box[0], box[1], box[2], box[3], Vector.ext fun i hi => by interval_cases i <;> rfl⟩
    change toSBoxTable [_, _, _, _] = _
    rw [toSBoxTable, hrow, hrow, hrow, hrow]

/-- A record has the shape of a `TABLES` exactly if it is that `TABLES` written as lists (R70, R76). -/
theorem RawTables.shape_eq_some_iff {r : RawTables} {t : Tables} :
    r.shape = some t ↔
      r.p10 = t.entries .p10 ∧ r.p8 = t.entries .p8 ∧ r.ip = t.entries .ip ∧
        r.ipinv = t.entries .ipinv ∧ r.ep = t.entries .ep ∧ r.p4 = t.entries .p4 ∧
        r.s0 = t.s0.toList.map (fun row => row.toList.map BitVec.toNat) ∧
        r.s1 = t.s1.toList.map (fun row => row.toList.map BitVec.toNat) := by
  simp only [Tables.entries, ← toIndexTable_eq_some_iff, ← toSBoxTable_eq_some_iff]
  constructor
  · intro h
    rw [RawTables.shape] at h
    split at h
    next h10 h8 hip hinv hep h4 h0 h1 => cases h; exact ⟨h10, h8, hip, hinv, hep, h4, h0, h1⟩
    next => cases h
  · rintro ⟨h10, h8, hip, hinv, hep, h4, h0, h1⟩
    rw [RawTables.shape, h10, h8, hip, hinv, hep, h4, h0, h1]

/-- A record passes exactly if it has the shape of a `TABLES` that is well-formed (R77). -/
theorem RawTables.configure_eq_some_iff {r : RawTables} {t : Tables} :
    r.configure = some t ↔ t.wellFormed = true ∧ r.shape = some t := by
  rw [RawTables.configure]
  cases r.shape with
  | none => simp
  | some u =>
    simp only [Option.ite_none_right_eq_some, Option.some.injEq]
    exact and_congr_left fun hu => by rw [hu]

/-- Settles O59: the shape is checked list by list (R70, R76), the rest is `Tables.wellFormed` (R71 to R75). -/
theorem configurationCheck : Obligations.ConfigurationCheck := by
  intro r t
  rw [RawTables.configure_eq_some_iff, RawTables.shape_eq_some_iff]

/-- What a record that passes has met of the checks, read on its own lists: `P4` is in range (R70), `P10` repeats no
entry (R71), `EP` reads the right half (R74). -/
theorem RawTables.lists_of_configure {r : RawTables} {t : Tables} (h : r.configure = some t) :
    (∀ j ∈ r.p4, j < 4) ∧ r.p10.Nodup ∧ ∀ j ∈ r.ep, 4 ≤ j := by
  obtain ⟨hwf, h10, -, -, -, hep, h4, -⟩ := (configurationCheck r t).1 h
  obtain ⟨hinj, -, -, -, -, hright⟩ := t.wellFormed_iff.1 hwf
  rw [h4, h10, hep, Tables.entries, Tables.entries, toList_eq_ofFn_tabRead, toList_eq_ofFn_tabRead]
  refine ⟨fun _ => t.entries_lt .p4, (List.nodup_ofFn.2 hinj).map Fin.val_injective, fun j hj => ?_⟩
  obtain ⟨_, hx, rfl⟩ := List.mem_map.1 hj
  obtain ⟨i, rfl⟩ := (List.mem_ofFn' ..).1 hx
  exact hright i

end Sys2Proof
end

section
namespace Sys2Proof.Machine

/-! ### What `PERM` selects (R78, R80) -/

/-- A cell of a `PERM` is the source cell its table entry names (R78). -/
@[simp] theorem cell_perm {n w : Nat} (t : IndexTable n w) (v : BitVec w) (i : Fin n) :
    cell (perm t v) i = cell v (tabRead t i) :=
  cell_ofCells _ i

/-- Cell 0 is the most significant bit (R7). -/
theorem cell_eq_getLsbD {w : Nat} (v : BitVec w) {j : Nat} (h : j < w) : cell v j = v.getLsbD (w - 1 - j) := by
  simp [cell, BitVec.getMsbD, h]

/-- Every cell of zero is clear. -/
@[simp] theorem cell_zero (w i : Nat) : cell 0#w i = false := by
  simp [cell]

/-- Settles O7: the table by `cell_perm`, the numbering of cells by `cell_eq_getLsbD`. -/
theorem permSelectsCells : Obligations.PermSelectsCells :=
  fun _ _ t v => ⟨cell_perm t v, fun _ => cell_eq_getLsbD v⟩

/-- Settles O8: both sides have the same cells. -/
theorem permIsXorLinear : Obligations.PermIsXorLinear := by
  refine fun n w t a b => ⟨eq_of_cells fun i => ?_, eq_of_cells fun i => ?_⟩
  · rw [cell_perm, cell_xor, cell_xor, cell_perm, cell_perm]
  · rw [cell_perm, cell_zero, cell_zero]

/-- `PERM` over `u`, then over `t`, gives back every cell where `t` picks out the entry of `u` that names it. -/
theorem perm_perm_cancel {n w : Nat} {t : IndexTable w n} {u : IndexTable n w}
    (h : Function.RightInverse (tabRead t) (tabRead u)) (v : BitVec w) : perm t (perm u v) = v := by
  refine eq_of_cells fun i => ?_
  rw [cell_perm, cell_perm, h i]

/-- Settles O17: `IPINV` is a right inverse of `IP` (R73), and so its inverse, since `IP` repeats no entry (R71). -/
theorem initialPermutationInverse : Obligations.InitialPermutationInverse := by
  intro t v ht
  obtain ⟨-, -, hip, -, hinv, -⟩ := t.wellFormed_iff.1 ht
  exact ⟨perm_perm_cancel hinv v, perm_perm_cancel (hinv.leftInverse_of_injective hip) v⟩

/-! ### `PERM` as an instruction (R78, log entries 5, 6 and 12) -/

/-- `PERM` as an instruction is its meaning. -/
theorem exec_perm (t : TableRef) (w : Nat) (v : BitVec w) (s : State) :
    exec (.perm t w v) s = execPerm t w v s := rfl

/-- A table operand that fits the source has every entry in range (R78). -/
theorem tableEntries_lt (tables : Tables) {t : TableRef} {w : Nat} (h : t.fits w = true) :
    (tableEntries tables t).all (· < w) = true := by
  cases t with
  | named name =>
    have hw : name.sourceWidth ≤ w := of_decide_eq_true h
    exact List.all_eq_true.2 fun j hj => decide_eq_true ((tables.entries_lt name hj).trans_le hw)
  | inline l => exact h

/-- Settles O40: a table that fits has its entries in range, and `PERM` of a list is decided by that. -/
theorem permReturnsSelectedCells : Obligations.PermReturnsSelectedCells := by
  refine ⟨fun t w v s hfits => ?_, fun l w v s hout => ?_⟩
  · obtain ⟨y, hy, hcells⟩ := permList_some v (tableEntries_lt s.tables hfits)
    refine ⟨y, ?_, hcells⟩
    rw [exec_perm, execPerm, hy]
    rfl
  · have hnone : permList (tableEntries s.tables (.inline l)) v = none := permList_none v hout
    rw [exec_perm, execPerm, hnone]

/-! ### Building a machine (R77, R84) -/

/-- A record that passes builds the machine powered up with its tables. -/
theorem State.build_of_configure {r : RawTables} {t : Tables} (h : r.configure = some t) :
    State.build r = some (State.powerUp t) := by
  rw [State.build, h]

/-- A record that passes for no `TABLES` builds no machine (R77). -/
theorem State.build_eq_none {r : RawTables} (h : ∀ t, r.configure ≠ some t) : State.build r = none := by
  rw [State.build, Option.eq_none_iff_forall_ne_some.2 h]

/-- The entries R84 lists pass the check. -/
theorem configure_rawStd : rawStd.configure = some tablesStd :=
  (configurationCheck rawStd tablesStd).2 ⟨tablesStd_wellFormed, rfl, rfl, rfl, rfl, rfl, rfl, rfl, rfl⟩

/-- Settles O60: a malformed record fails the one check that its changed list no longer meets. -/
theorem stdTablesAreConfigured : Obligations.StdTablesAreConfigured := by
  refine ⟨configure_rawStd, State.build_of_configure configure_rawStd, State.build_eq_none fun t h => ?_,
    State.build_eq_none fun t h => ?_, State.build_eq_none fun t h => ?_⟩
  · obtain ⟨hrange, -, -⟩ := RawTables.lists_of_configure h
    exact absurd hrange (by decide)
  · obtain ⟨-, hnodup, -⟩ := RawTables.lists_of_configure h
    exact absurd hnodup (by decide)
  · obtain ⟨-, -, hright⟩ := RawTables.lists_of_configure h
    exact absurd hright (by decide)

end Sys2Proof.Machine
end

/-! ## The key schedule (R85 to R91)

What a rotation and a run of cells do comes first; then `KS` as two selections of key cells, its closed form, its value on
constant keys and under `TABLES_STD`; last the datapath operations and `KS` as instructions. -/

section
namespace Sys2Proof.Machine

/-! ### Rotations (R8, R85) -/

/-- A cell of a rotation (R8). -/
theorem cell_rol {w : Nat} (v : BitVec w) (k : Nat) (i : Fin w) : cell (rol v k) i = cell v ((i + k) % w) :=
  cell_ofCells _ i

/-- Rotations add up. -/
theorem rol_rol {w : Nat} (v : BitVec w) (a b : Nat) : rol (rol v a) b = rol v (a + b) := by
  refine eq_of_cells fun i => ?_
  have hcell : cell (rol v a) ((i + b) % w) = cell v (((i + b) % w + a) % w) :=
    cell_rol v a ⟨(i + b) % w, Nat.mod_lt _ i.pos⟩
  rw [cell_rol, hcell, cell_rol, Nat.mod_add_mod, Nat.add_assoc, Nat.add_comm b a]

/-- A rotation toward cell 0 is the library's rotation to the left, toward the most significant bit (R7). -/
theorem rol_eq_rotateLeft {w : Nat} (v : BitVec w) (k : Nat) : rol v k = v.rotateLeft k := by
  refine eq_of_cells fun i => ?_
  rw [cell_rol, cell, cell, BitVec.getMsbD_rotateLeft, decide_eq_true i.isLt, Bool.true_and, Nat.add_comm]

/-- A rotation by less than the width, as integers: what leaves above re-enters below (R85). -/
theorem rol_toNat {w k : Nat} (v : BitVec w) (hk : k < w) :
    (rol v k).toNat = (v.toNat <<< k ||| v.toNat >>> (w - k)) &&& (2 ^ w - 1) := by
  have hlow : v.toNat >>> (w - k) < 2 ^ w := (Nat.shiftRight_le _ _).trans_lt v.isLt
  rw [rol_eq_rotateLeft, BitVec.toNat_rotateLeft, Nat.mod_eq_of_lt hk, Nat.and_two_pow_sub_one_eq_mod,
    Nat.or_mod_two_pow, Nat.mod_eq_of_lt hlow]

/-- The amounts of `ROL5` are below its width. -/
theorem rotBy_lt (k : RotAmount) : rotBy k < 5 := by
  cases k <;> decide

/-- Settles O9: cells by `cell_rol`, integers by `rol_toNat`, two shifts by `rol_rol`. -/
theorem rol5RotatesTowardCellZero : Obligations.Rol5RotatesTowardCellZero :=
  ⟨rfl, rfl, fun h k => ⟨rfl, cell_rol h (rotBy k), rol_toNat h (rotBy_lt k), rol_rol h 1 2⟩⟩

/-! ### Two runs of cells side by side (R7, R86) -/

/-- A cell of a concatenation lies in the high part or, past it, in the low one. -/
theorem cell_append {m n : Nat} (a : BitVec m) (b : BitVec n) (i : Nat) :
    cell (a ++ b) i = if i < m then cell a i else cell b (i - m) := by
  rw [cell, BitVec.getMsbD_append]
  split_ifs with hge hlt hlt
  · omega
  · rfl
  · rfl
  · omega

/-- A cell of a left key half (R86). -/
theorem cell_keyLeft (pk : Key) {i : Nat} (hi : i < 5) : cell (keyLeft pk) i = cell pk i := by
  have h := cell_cells pk 0 5 ⟨i, hi⟩
  rwa [Nat.zero_add] at h

/-- A cell of a right key half (R86). -/
theorem cell_keyRight (pk : Key) {i : Nat} (hi : i < 5) : cell (keyRight pk) i = cell pk (5 + i) :=
  cell_cells pk 5 5 ⟨i, hi⟩

/-- The halves of a permuted key make it up (R86). -/
theorem keyLeft_append_keyRight (pk : Key) : keyLeft pk ++ keyRight pk = pk := by
  refine eq_of_cells fun i => ?_
  rw [cell_append]
  split_ifs with hi
  · exact cell_keyLeft pk hi
  · rw [cell_keyRight pk (by omega), Nat.add_sub_cancel' (by omega)]

/-! ### `KS` in closed form (R87, R90) -/

/-- Each half of the permuted key rotated on its own by `k` in all: what `P8` selects a subkey from (R90). -/
def shiftHalves (pk : Key) (k : Nat) : Key := rol (keyLeft pk) k ++ rol (keyRight pk) k

/-- `KS` selects `K1` from the halves shifted by 1, `K2` from the halves shifted by 3 (R90). -/
theorem ks_eq_shiftHalves (t : Tables) (key : Key) :
    ks t key = (perm t.p8 (shiftHalves (perm t.p10 key) 1), perm t.p8 (shiftHalves (perm t.p10 key) 3)) := by
  have hadd : ∀ h : KeyHalf, rol5 (rol5 h .one) .two = rol h 3 := fun h => rol_rol h 1 2
  rw [ks, hadd, hadd]
  rfl

/-- Settles O10: the second shift of `KS` adds to the first. -/
theorem keyScheduleClosedForm : Obligations.KeyScheduleClosedForm := by
  intro t key
  rw [ks_eq_shiftHalves]
  exact ⟨keyLeft_append_keyRight _, rfl, rfl⟩

/-! ### Constant keys (R87, corner cases) -/

/-- Every cell of a constant value holds its bit. -/
theorem cell_fill (b : Bool) {w i : Nat} (hi : i < w) : cell (BitVec.fill w b) i = b := by
  rw [cell, BitVec.getMsbD_fill, decide_eq_true hi, Bool.and_true]

/-- `PERM` keeps a constant value constant. -/
theorem perm_fill {n w : Nat} (t : IndexTable n w) (b : Bool) : perm t (BitVec.fill w b) = BitVec.fill n b := by
  refine eq_of_cells fun i => ?_
  rw [cell_perm, cell_fill b (tabRead t i).isLt, cell_fill b i.isLt]

/-- A rotation keeps a constant value. -/
theorem rol_fill (w : Nat) (b : Bool) (k : Nat) : rol (BitVec.fill w b) k = BitVec.fill w b := by
  refine eq_of_cells fun i => ?_
  rw [cell_rol, cell_fill b (Nat.mod_lt _ i.pos), cell_fill b i.isLt]

/-- A run of cells of a constant value is constant. -/
theorem cells_fill (b : Bool) {w a n : Nat} (h : a + n ≤ w) : cells (BitVec.fill w b) a n = BitVec.fill n b := by
  refine eq_of_cells fun i => ?_
  rw [cell_cells, cell_fill b (by omega), cell_fill b i.isLt]

/-- Shifting the halves of a constant value keeps it. -/
theorem shiftHalves_fill (b : Bool) (k : Nat) : shiftHalves (BitVec.fill 10 b) k = BitVec.fill 10 b := by
  have hleft : rol (keyLeft (BitVec.fill 10 b)) k = keyLeft (BitVec.fill 10 b) := by
    rw [keyLeft, cells_fill b (by decide), rol_fill]
  have hright : rol (keyRight (BitVec.fill 10 b)) k = keyRight (BitVec.fill 10 b) := by
    rw [keyRight, cells_fill b (by decide), rol_fill]
  rw [shiftHalves, hleft, hright, keyLeft_append_keyRight]

/-- `KS` of a constant key is twice the constant subkey, whatever the tables (R87). -/
theorem ks_fill (t : Tables) (b : Bool) : ks t (BitVec.fill 10 b) = (BitVec.fill 8 b, BitVec.fill 8 b) := by
  rw [ks_eq_shiftHalves, perm_fill, shiftHalves_fill, shiftHalves_fill, perm_fill]

/-- Settles O11: all zeros and all ones are the two constant keys. -/
theorem keyScheduleOfConstantKeys : Obligations.KeyScheduleOfConstantKeys :=
  fun t => ⟨ks_fill t false, ks_fill t true⟩

/-! ### Which key cell reaches which subkey cell (R91) -/

/-- The cell of the permuted key that `shiftHalves` by `k` brings to cell `j`: `k` further on in the same half. -/
def shiftSource (k : Nat) (j : Fin 10) : Fin 10 :=
  if j.val < 5 then ⟨(j + k) % 5, by omega⟩ else ⟨5 + (j - 5 + k) % 5, by omega⟩

/-- `shiftHalves` moves cells inside each half only (R85). -/
theorem cell_shiftHalves (pk : Key) (k : Nat) (j : Fin 10) : cell (shiftHalves pk k) j = cell pk (shiftSource k j) := by
  rw [shiftHalves, cell_append, shiftSource]
  split_ifs with hj
  · rw [cell_rol _ k ⟨j, hj⟩, cell_keyLeft pk (Nat.mod_lt _ (by decide))]
  · rw [cell_rol _ k ⟨j - 5, by omega⟩, cell_keyRight pk (Nat.mod_lt _ (by decide))]

/-- The key cell that cell `i` of the subkey made with shifts by `k` holds: `P8`, the shift and `P10` read backward. -/
def subkeySource (t : Tables) (k : Nat) (i : Fin 8) : Fin 10 := tabRead t.p10 (shiftSource k (tabRead t.p8 i))

/-- A subkey cell is the key cell of its source. -/
theorem cell_subkey (t : Tables) (key : Key) (k : Nat) (i : Fin 8) :
    cell (perm t.p8 (shiftHalves (perm t.p10 key) k)) i = cell key (subkeySource t k i) := by
  rw [cell_perm, cell_shiftHalves, cell_perm, subkeySource]

/-- A block of eight bits is the block with those cells, the first one cell 0 (R58). -/
theorem ofCells_eq_blockOfBits (f : Fin 8 → Bool) :
    ofCells f = blockOfBits (f 0) (f 1) (f 2) (f 3) (f 4) (f 5) (f 6) (f 7) := by
  have hfirst : ∀ b : Bool, (0#0).concat b = BitVec.ofBool b := by decide
  simp only [ofCells, hfirst]
  rfl

/-- A subkey is the block of the key cells its eight sources name. -/
theorem subkey_eq_blockOfBits (t : Tables) (key : Key) (k : Nat) :
    perm t.p8 (shiftHalves (perm t.p10 key) k) =
      blockOfBits (cell key (subkeySource t k 0)) (cell key (subkeySource t k 1)) (cell key (subkeySource t k 2))
        (cell key (subkeySource t k 3)) (cell key (subkeySource t k 4)) (cell key (subkeySource t k 5))
        (cell key (subkeySource t k 6)) (cell key (subkeySource t k 7)) := by
  rw [← ofCells_eq_blockOfBits fun i => cell key (subkeySource t k i)]
  refine eq_of_cells fun i => ?_
  rw [cell_subkey, cell_ofCells]

/-- The sources of the cells of `K1` under `TABLES_STD` (R91). -/
theorem subkeySource_tablesStd_one : subkeySource tablesStd 1 = ![0, 6, 8, 3, 7, 2, 9, 5] := by decide

/-- The sources of the cells of `K2` under `TABLES_STD` (R91). -/
theorem subkeySource_tablesStd_three : subkeySource tablesStd 3 = ![7, 2, 5, 4, 9, 1, 8, 0] := by decide

/-- Settles O12: each subkey is the block of its sources, and these are the cells R91 lists. -/
theorem keyScheduleStdClosedForm : Obligations.KeyScheduleStdClosedForm := by
  intro key
  rw [ks_eq_shiftHalves, subkey_eq_blockOfBits, subkey_eq_blockOfBits, subkeySource_tablesStd_one,
    subkeySource_tablesStd_three]
  exact ⟨rfl, rfl⟩

/-! ### The datapath operations as instructions (R85 to R101, log entries 5 and 6) -/

/-- `ROL5` as an instruction returns its value. -/
theorem exec_rol5 (h : KeyHalf) (k : RotAmount) (s : State) :
    exec (.rol5 h k) s = .next (returnValue (.bits 5 (rol5 h k)) s) := rfl

/-- `SBOX` as an instruction returns the entry of the box it names. -/
theorem exec_sbox (box : SBoxName) (n : BitVec 4) (s : State) :
    exec (.sbox box n) s = .next (returnValue (.bits 2 (sbox (s.tables.sbox box) n)) s) := rfl

/-- `F` as an instruction returns its value. -/
theorem exec_f (x : Block) (k : Subkey) (s : State) :
    exec (.f x k) s = .next (returnValue (.bits 4 (roundF s.tables x k)) s) := rfl

/-- `FK` as an instruction returns its value. -/
theorem exec_fk (x : Block) (k : Subkey) (s : State) :
    exec (.fk x k) s = .next (returnValue (.bits 8 (roundFK s.tables x k)) s) := rfl

/-- `SW` as an instruction returns its value. -/
theorem exec_sw (x : Block) (s : State) : exec (.sw x) s = .next (returnValue (.bits 8 (swapHalves x)) s) := rfl

/-- `KS` as an instruction writes the pair and returns it (R88). -/
theorem exec_ks (key : Key) (s : State) : exec (.ks key) s = execKs key s := rfl

/-- Settles O41: each operation returns its value, and the values unfold to the lines of R85 and R97 to R101. -/
theorem datapathOperationsReturn : Obligations.DatapathOperationsReturn :=
  fun s => ⟨(exec_rol5 · · s), (exec_sbox .s0 · s), (exec_sbox .s1 · s), (exec_f · · s), (exec_fk · · s), (exec_sw · s)⟩

/-- Settles O42: `KS` writes the pair and returns it. -/
theorem keyScheduleWritesPair : Obligations.KeyScheduleWritesPair :=
  fun s key => exec_ks key s

end Sys2Proof.Machine
end

/-! ## The round function (R95 to R102)

What the halves of a round state are comes first; then `SBOX`, what `F` reads, the halves that `FK` and `SW` leave, and
from these that both undo themselves. -/

section
namespace Sys2Proof.Machine

/-! ### The halves of a round state (R95) -/

/-- A cell of a left half. -/
theorem cell_leftHalf (s : Block) {i : Nat} (hi : i < 4) : cell (leftHalf s) i = cell s i := by
  have h := cell_cells s 0 4 ⟨i, hi⟩
  rwa [Nat.zero_add] at h

/-- A cell of a right half. -/
theorem cell_rightHalf (s : Block) {i : Nat} (hi : i < 4) : cell (rightHalf s) i = cell s (4 + i) :=
  cell_cells s 4 4 ⟨i, hi⟩

/-- Two round states with the same halves are the same. -/
theorem eq_of_halves {s s' : Block} (hleft : leftHalf s = leftHalf s') (hright : rightHalf s = rightHalf s') :
    s = s' := by
  rw [← leftHalf_append_rightHalf s, hleft, hright, leftHalf_append_rightHalf]

/-- Round states that agree in the right half agree in the cells from 4 on. -/
theorem cell_eq_of_rightHalf_eq {s s' : Block} (h : rightHalf s = rightHalf s') {i : Fin 8} (hi : 4 ≤ i.val) :
    cell s i = cell s' i := by
  obtain ⟨j, hj⟩ := Nat.exists_eq_add_of_le hi
  have hj4 : j < 4 := by omega
  rw [hj, ← cell_rightHalf s hj4, h, cell_rightHalf s' hj4]

/-! ### `SBOX` (R97) -/

/-- The row of an S-box input, as an integer. -/
theorem pairIndex_top (n : BitVec 4) : (pairIndex (cell n 0) (cell n 1)).val = n.toNat / 4 := by
  revert n; decide

/-- The column of an S-box input, as an integer. -/
theorem pairIndex_bottom (n : BitVec 4) : (pairIndex (cell n 2) (cell n 3)).val = n.toNat % 4 := by
  revert n; decide

/-- Settles O13: the two pairs of cells are the two base-4 digits of the input. -/
theorem sboxRowIsTopTwoBits : Obligations.SboxRowIsTopTwoBits := by
  intro box n r c hr hc
  have hrow : pairIndex (cell n 0) (cell n 1) = r := Fin.ext ((pairIndex_top n).trans hr.symm)
  have hcol : pairIndex (cell n 2) (cell n 3) = c := Fin.ext ((pairIndex_bottom n).trans hc.symm)
  rw [sbox, hrow, hcol, sboxRead]

/-! ### `F` and `FK` (R99, R100, R102) -/

/-- `EP` selects from the right half only (R74). -/
theorem perm_ep_eq_of_rightHalf_eq {t : Tables} (ht : t.wellFormed = true) {s s' : Block}
    (h : rightHalf s = rightHalf s') : perm t.ep s = perm t.ep s' := by
  obtain ⟨-, -, -, -, -, hep⟩ := t.wellFormed_iff.1 ht
  refine eq_of_cells fun i => ?_
  rw [cell_perm, cell_perm, cell_eq_of_rightHalf_eq h (hep i)]

/-- `F` reads the right half only (R99, corner case). -/
theorem roundF_eq_of_rightHalf_eq {t : Tables} (ht : t.wellFormed = true) {s s' : Block} (k : Subkey)
    (h : rightHalf s = rightHalf s') : roundF t s k = roundF t s' k := by
  rw [roundF, roundF, perm_ep_eq_of_rightHalf_eq ht h]

/-- A round XORs `F` into the left half (R100). -/
@[simp] theorem leftHalf_roundFK (t : Tables) (s : Block) (k : Subkey) :
    leftHalf (roundFK t s k) = leftHalf s ^^^ roundF t s k :=
  leftHalf_append _ _

/-- A round passes the right half through (R100). -/
@[simp] theorem rightHalf_roundFK (t : Tables) (s : Block) (k : Subkey) :
    rightHalf (roundFK t s k) = rightHalf s :=
  rightHalf_append _ _

/-- Settles O14: the lines of R99 are the definition, and `EP` is the only one of them that reads the round state. -/
theorem roundReadsAndPassesRightHalf : Obligations.RoundReadsAndPassesRightHalf :=
  fun t s k => ⟨rfl, leftHalf_roundFK t s k, rightHalf_roundFK t s k, fun _ ht => roundF_eq_of_rightHalf_eq ht k⟩

/-- Settles O15: both rounds see the same right half, so they XOR the same `F` into the left half. -/
theorem roundIsInvolution : Obligations.RoundIsInvolution := by
  intro t s k ht
  have hF : roundF t (roundFK t s k) k = roundF t s k := roundF_eq_of_rightHalf_eq ht k (rightHalf_roundFK t s k)
  refine eq_of_halves ?_ ?_
  · rw [leftHalf_roundFK, hF, leftHalf_roundFK, BitVec.xor_assoc, BitVec.xor_self, BitVec.xor_zero]
  · rw [rightHalf_roundFK, rightHalf_roundFK]

/-! ### `SW` (R101) -/

/-- The left half after the swap. -/
@[simp] theorem leftHalf_swapHalves (s : Block) : leftHalf (swapHalves s) = rightHalf s :=
  leftHalf_append _ _

/-- The right half after the swap. -/
@[simp] theorem rightHalf_swapHalves (s : Block) : rightHalf (swapHalves s) = leftHalf s :=
  rightHalf_append _ _

/-- The swap undoes itself. -/
theorem swapHalves_swapHalves (s : Block) : swapHalves (swapHalves s) = s :=
  eq_of_halves (by simp) (by simp)

/-- The swap keeps what has equal halves, and nothing else. -/
theorem swapHalves_eq_self_iff (s : Block) : swapHalves s = s ↔ leftHalf s = rightHalf s := by
  constructor
  · intro h
    rw [← rightHalf_swapHalves, h]
  · intro h
    exact eq_of_halves (by rw [leftHalf_swapHalves, h]) (by rw [rightHalf_swapHalves, h])

/-- The swap is a rotation by half the width. -/
theorem swapHalves_eq_rol (s : Block) : swapHalves s = rol s 4 := by
  refine eq_of_cells fun i => ?_
  rw [swapHalves, cell_append, cell_rol]
  split_ifs with hi
  · rw [cell_rightHalf s hi, Nat.add_comm, Nat.mod_eq_of_lt (by omega)]
  · rw [cell_leftHalf s (by omega)]
    congr 1
    omega

/-- The mask of R101's integer form clears only what the shift drops. -/
theorem and_low_shiftLeft (s : Block) : (s &&& 0x0F#8) <<< 4 = s <<< 4 := by
  have hmask : (s &&& 0x0F#8).toNat = s.toNat % 2 ^ 4 := Nat.and_two_pow_sub_one_eq_mod s.toNat 4
  refine BitVec.eq_of_toNat_eq ?_
  rw [BitVec.toNat_shiftLeft, BitVec.toNat_shiftLeft, hmask]
  omega

/-- The swap on integers (R101). -/
theorem swapHalves_eq_shift_or_shift (s : Block) : swapHalves s = ((s &&& 0x0F#8) <<< 4 ||| s >>> 4) := by
  rw [swapHalves_eq_rol, rol_eq_rotateLeft, BitVec.rotateLeft_def, and_low_shiftLeft]

/-- Settles O16: as integers `SW` is a rotation by 4; the rest follows from the halves it leaves. -/
theorem swapExchangesHalves : Obligations.SwapExchangesHalves :=
  ⟨by decide, fun s => ⟨rfl, swapHalves_eq_shift_or_shift s, swapHalves_swapHalves s, swapHalves_eq_self_iff s⟩⟩

end Sys2Proof.Machine
end

/-! ## The block cipher (R111 to R119)

The lines of `CRYPT` undo each other, so `CRYPT` with the subkeys exchanged undoes `CRYPT` (R116 to R118). Then what is
special to `TABLES_STD`: which keys have `K1 = K2` (R118), and that its cipher tells any two keys apart (R119). Last the
cipher operations as instructions. -/

section
namespace Sys2Proof.Machine

/-! ### `CRYPT` undone by `CRYPT` (R116) -/

section
variable {t : Tables} (ht : t.wellFormed = true)
include ht

/-- Loading undoes unloading (R73). -/
theorem cryptLoad_cryptUnload (s : Block) : cryptLoad t (cryptUnload t s) = s :=
  (initialPermutationInverse t s ht).2

/-- Unloading undoes loading (R73). -/
theorem cryptUnload_cryptLoad (b : Block) : cryptUnload t (cryptLoad t b) = b :=
  (initialPermutationInverse t b ht).1

/-- Round 1 after a round 2 with the same subkey leaves the swap alone (R102). -/
theorem cryptRound1_cryptRound2 (s : Block) (k : Subkey) : cryptRound1 t (cryptRound2 t s k) k = swapHalves s := by
  rw [cryptRound1, cryptRound2, roundIsInvolution t s k ht]

/-- Round 2 undoes round 1 with the same subkey, once the swap is taken back (R101, R102). -/
theorem cryptRound2_swapHalves_cryptRound1 (s : Block) (k : Subkey) :
    cryptRound2 t (swapHalves (cryptRound1 t s k)) k = s := by
  rw [cryptRound1, swapHalves_swapHalves, cryptRound2, roundIsInvolution t s k ht]

/-- `CRYPT` with the subkeys exchanged undoes `CRYPT`: its round 1 undoes round 2, its round 2 undoes round 1. -/
theorem crypt_crypt (b : Block) (ka kb : Subkey) : crypt t (crypt t b ka kb) kb ka = b := by
  rw [crypt, crypt, cryptLoad_cryptUnload ht, cryptRound1_cryptRound2 ht, cryptRound2_swapHalves_cryptRound1 ht,
    cryptUnload_cryptLoad ht]

end

/-- Settles O18: `Encrypt` and `Decrypt` are `CRYPT` with the same subkeys in the two orders. -/
theorem blockRoundTrip : Obligations.BlockRoundTrip :=
  fun _ b _ ht => ⟨crypt_crypt ht b _ _, crypt_crypt ht b _ _⟩

/-- Settles O19: the round trip says that `Decrypt` is a two-sided inverse. -/
theorem encryptIsBijection : Obligations.EncryptIsBijection := by
  intro t key ht
  have hdec (b : Block) : decrypt t (encrypt t b key) key = b := (blockRoundTrip t b key ht).1
  have henc (c : Block) : encrypt t (decrypt t c key) key = c := (blockRoundTrip t c key ht).2
  refine ⟨Function.bijective_iff_has_inverse.2 ⟨(decrypt t · key), hdec, henc⟩, fun b c => ⟨?_, ?_⟩⟩
  · rintro rfl
    exact hdec b
  · rintro rfl
    exact henc c

/-- Settles O20: with equal subkeys the two orders are the same. -/
theorem equalSubkeysSelfInverse : Obligations.EqualSubkeysSelfInverse := by
  intro t key ht hk b
  have hsame (b : Block) : encrypt t b key = decrypt t b key := by
    rw [encrypt, decrypt, enc, dec, hk]
  exact ⟨hsame b, by rw [hsame (encrypt t b key), (blockRoundTrip t b key ht).1]⟩

/-! ### Keys with equal subkeys (R118) -/

/-- A cell of `K1` is the key cell of its source. -/
theorem cell_ks_fst (t : Tables) (key : Key) (i : Fin 8) : cell (ks t key).1 i = cell key (subkeySource t 1 i) := by
  rw [ks_eq_shiftHalves, cell_subkey]

/-- A cell of `K2` is the key cell of its source. -/
theorem cell_ks_snd (t : Tables) (key : Key) (i : Fin 8) : cell (ks t key).2 i = cell key (subkeySource t 3 i) := by
  rw [ks_eq_shiftHalves, cell_subkey]

/-- The key whose cells are `a`, `b` or `c` by class. Two cells are in one class if R91 puts them at the same place of
`K1` and of `K2`, or a chain of such pairs joins them. -/
def keyOfClasses (a b c : Bool) : Key := ofCells ![a, b, b, c, c, a, b, a, a, a]

/-- Under `TABLES_STD` equal subkeys tie the key cells together in three classes. -/
theorem eq_keyOfClasses_of_ks_eq {key : Key} (h : (ks tablesStd key).1 = (ks tablesStd key).2) :
    key = keyOfClasses (cell key 0) (cell key 1) (cell key 3) := by
  have hcells (i : Fin 8) :
      cell key (![0, 6, 8, 3, 7, 2, 9, 5] i : Fin 10) = cell key (![7, 2, 5, 4, 9, 1, 8, 0] i : Fin 10) := by
    rw [← subkeySource_tablesStd_one, ← subkeySource_tablesStd_three, ← cell_ks_fst, h, cell_ks_snd]
  have h5 : cell key 5 = cell key 0 := hcells 7
  have h8 : cell key 8 = cell key 0 := (hcells 2).trans h5
  have h9 : cell key 9 = cell key 0 := (hcells 6).trans h8
  have h7 : cell key 7 = cell key 0 := (hcells 4).trans h9
  have h2 : cell key 2 = cell key 1 := hcells 5
  have h6 : cell key 6 = cell key 1 := (hcells 1).trans h2
  have h4 : cell key 4 = cell key 3 := (hcells 3).symm
  refine eq_of_cells fun i => ?_
  rw [keyOfClasses, cell_ofCells]
  exact match i with
    | 0 => rfl | 1 => rfl | 2 => h2 | 3 => rfl | 4 => h4 | 5 => h5 | 6 => h6 | 7 => h7 | 8 => h8 | 9 => h9

/-- Settles O21: the eight keys are the values of the three classes, and each of them has equal subkeys. -/
theorem stdSelfInverseKeys : Obligations.StdSelfInverseKeys := by
  intro key
  constructor
  · intro h
    rw [eq_keyOfClasses_of_ks_eq h]
    generalize cell key 0 = a, cell key 1 = b, cell key 3 = c
    revert a b c
    decide
  · exact (List.forall_iff_forall_mem (p := fun k => (ks tablesStd k).1 = (ks tablesStd k).2)).1 (by decide) key

/-! ### What the cipher tells apart (R119) -/

/-- A table that names every cell of its source loses nothing. -/
theorem perm_injective {n w : Nat} {t : IndexTable n w} (h : Function.Surjective (tabRead t)) :
    Function.Injective (perm t) := by
  refine fun a b hab => eq_of_cells fun j => ?_
  obtain ⟨i, rfl⟩ := h j
  rw [← cell_perm, hab, cell_perm]

/-- A concatenation determines its parts. -/
theorem append_inj {m n : Nat} {a a' : BitVec m} {b b' : BitVec n} (h : a ++ b = a' ++ b') : a = a' ∧ b = b' := by
  have hcell (i : Nat) :
      (if i < m then cell a i else cell b (i - m)) = if i < m then cell a' i else cell b' (i - m) := by
    rw [← cell_append, h, cell_append]
  exact ⟨eq_of_cells fun i => by simpa using hcell i, eq_of_cells fun i => by simpa using hcell (m + i)⟩

/-- A run of cells of an exclusive or. -/
theorem cells_xor {w : Nat} (a b : BitVec w) (j n : Nat) : cells (a ^^^ b) j n = cells a j n ^^^ cells b j n := by
  refine eq_of_cells fun i => ?_
  rw [cell_cells, cell_xor, cell_xor, cell_cells, cell_cells]

/-- No difference of two inputs but zero is invisible at every input of the S-box. -/
def DifferencesVisible (box : SBoxTable) : Prop :=
  ∀ d : BitVec 4, (∀ x, sbox box (x ^^^ d) = sbox box x) → d = 0#4

/-- Such an S-box tells apart two masks of its input. -/
theorem DifferencesVisible.mask_eq {box : SBoxTable} (hbox : DifferencesVisible box) {k k' : BitVec 4}
    (h : ∀ x, sbox box (x ^^^ k) = sbox box (x ^^^ k')) : k = k' := by
  refine BitVec.xor_eq_zero_iff.1 (hbox _ fun x => ?_)
  calc sbox box (x ^^^ (k ^^^ k'))
    _ = sbox box (x ^^^ k' ^^^ k) := by rw [BitVec.xor_comm k, BitVec.xor_assoc]
    _ = sbox box (x ^^^ k' ^^^ k') := h _
    _ = sbox box x := by rw [BitVec.xor_assoc, BitVec.xor_self, BitVec.xor_zero]

/-- `F` with two subkeys that agree on every round state: each S-box agrees on its own half. -/
theorem sbox_eq_of_roundF_eq {t : Tables} (ht : t.wellFormed = true) {s : Block} {k k' : Subkey}
    (h : roundF t s k = roundF t s k') :
    sbox t.s0 (leftHalf (perm t.ep s) ^^^ leftHalf k) = sbox t.s0 (leftHalf (perm t.ep s) ^^^ leftHalf k') ∧
      sbox t.s1 (rightHalf (perm t.ep s) ^^^ rightHalf k) =
        sbox t.s1 (rightHalf (perm t.ep s) ^^^ rightHalf k') := by
  obtain ⟨-, -, -, hp4, -, -⟩ := t.wellFormed_iff.1 ht
  have hparts := append_inj (perm_injective (Finite.injective_iff_surjective.1 hp4) h)
  simpa only [leftHalf, rightHalf, cells_xor] using hparts

/-- Under `TABLES_STD` every input of `S0` is reached: `EP` rotates the right half into it. -/
theorem leftHalf_ep_tablesStd : ∀ x : Half, leftHalf (perm tablesStd.ep (0#4 ++ rol x 1)) = x := by decide

/-- Under `TABLES_STD` every input of `S1` is reached: `EP` rotates the right half into it. -/
theorem rightHalf_ep_tablesStd : ∀ x : Half, rightHalf (perm tablesStd.ep (0#4 ++ rol x 3)) = x := by decide

/-- `S0` of `TABLES_STD` hides no difference. -/
theorem differencesVisible_s0 : DifferencesVisible tablesStd.s0 := by
  unfold DifferencesVisible
  decide

/-- `S1` of `TABLES_STD` hides no difference. -/
theorem differencesVisible_s1 : DifferencesVisible tablesStd.s1 := by
  unfold DifferencesVisible
  decide

/-- Under `TABLES_STD` the round function tells two subkeys apart. -/
theorem roundF_tablesStd_injective : Function.Injective fun k s => roundF tablesStd s k := by
  intro k k' h
  have hboxes (s : Block) := sbox_eq_of_roundF_eq tablesStd_wellFormed (congrFun h s)
  refine eq_of_halves (differencesVisible_s0.mask_eq fun x => ?_) (differencesVisible_s1.mask_eq fun x => ?_)
  · have h0 := (hboxes (0#4 ++ rol x 1)).1
    rwa [leftHalf_ep_tablesStd] at h0
  · have h1 := (hboxes (0#4 ++ rol x 3)).2
    rwa [rightHalf_ep_tablesStd] at h1

/-- A round function that tells subkeys apart makes a cipher that does: the right half after round 2 is the left half of
round 1, which shows the first subkey; with the first subkey known, every state is reached before round 2, and the left
half after it shows the second. -/
theorem subkeys_eq_of_crypt_eq {t : Tables} (ht : t.wellFormed = true)
    (hF : Function.Injective fun k s => roundF t s k) {ka kb ka' kb' : Subkey}
    (h : ∀ b, crypt t b ka kb = crypt t b ka' kb') : ka = ka' ∧ kb = kb' := by
  have hrounds (s : Block) : cryptRound2 t (cryptRound1 t s ka) kb = cryptRound2 t (cryptRound1 t s ka') kb' := by
    have hs := congrArg (cryptLoad t) (h (cryptUnload t s))
    simpa only [crypt, cryptLoad_cryptUnload ht] using hs
  have ha : ka = ka' := hF <| funext fun s => by
    have hright := congrArg rightHalf (hrounds s)
    simpa [cryptRound1, cryptRound2] using hright
  refine ⟨ha, hF <| funext fun s => ?_⟩
  have hleft := congrArg leftHalf (hrounds (cryptRound2 t (swapHalves s) ka))
  rw [← ha, cryptRound1_cryptRound2 ht, swapHalves_swapHalves] at hleft
  simpa [cryptRound2] using hleft

/-- Under `TABLES_STD` every key cell reaches a subkey (R91), so the subkeys determine the key. -/
theorem ks_tablesStd_injective : Function.Injective (ks tablesStd) := by
  intro key key' h
  have hreach : ∀ j : Fin 10, ∃ i, subkeySource tablesStd 1 i = j ∨ subkeySource tablesStd 3 i = j := by decide
  refine eq_of_cells fun j => ?_
  obtain ⟨i, rfl | rfl⟩ := hreach j
  · rw [← cell_ks_fst, h, cell_ks_fst]
  · rw [← cell_ks_snd, h, cell_ks_snd]

/-- Under `TABLES_STD` two keys that encrypt every block alike are the same key. -/
theorem encrypt_tablesStd_injective : Function.Injective fun key b => encrypt tablesStd b key := by
  intro key key' h
  obtain ⟨h1, h2⟩ := subkeys_eq_of_crypt_eq tablesStd_wellFormed roundF_tablesStd_injective (congrFun h)
  exact ks_tablesStd_injective (Prod.ext h1 h2)

/-- Settles O22: a key with one cell flipped is another key, so it encrypts some block otherwise. -/
theorem stdAvalanche : Obligations.StdAvalanche := by
  intro key i
  have hflip : BitVec.twoPow 10 (9 - i) ≠ 0#10 := by
    revert i
    decide
  have hkey : key ^^^ BitVec.twoPow 10 (9 - i) ≠ key := fun h =>
    hflip ((BitVec.xor_right_inj key).1 (h.trans BitVec.xor_zero.symm))
  exact Function.ne_iff.1 (encrypt_tablesStd_injective.ne hkey)

/-! ### The cipher operations as instructions (R111 to R113, log entries 5 and 6) -/

/-- `CRYPT` as an instruction returns its value and leaves the cipher. -/
theorem exec_crypt (b : Block) (ka kb : Subkey) (s : State) :
    exec (.crypt b ka kb) s = .next (returnValue (.bits 8 (crypt s.tables b ka kb)) (leaveCipher s)) := rfl

/-- `ENC` as an instruction is its meaning. -/
theorem exec_enc (b : Block) (s : State) : exec (.enc b) s = execEnc b s := rfl

/-- `DEC` as an instruction is its meaning. -/
theorem exec_dec (b : Block) (s : State) : exec (.dec b) s = execDec b s := rfl

/-- Settles O43: `CRYPT` and its value are R111's lines, and `ENC` and `DEC` go on where the subkeys hold values. -/
theorem cipherOperationsComplete : Obligations.CipherOperationsComplete := by
  refine fun s b k1 k2 key => ⟨exec_crypt b k1 k2 s, rfl, rfl, rfl, fun h1 h2 => ⟨?_, ?_⟩⟩
  · rw [exec_enc, execEnc, encOp_some h1 h2]
    rfl
  · rw [exec_dec, execDec, decOp_some h1 h2]
    rfl

end Sys2Proof.Machine
end

/-! ## The CBC mode (R126 to R134)

`CBCE` and `CBCD` by the first block and the rest are the rules of this part. The recurrence of `CBCE` and the round
trip are inductions over the blocks. How far a change reaches is an induction over the blocks before it: after it a
difference of encryption inputs never dies out, a difference of decryption feedbacks lives for one block. Last the two
block operations as instructions. -/

section
namespace Sys2Proof.Machine

/-! ### `CBCE` and `CBCD` by the first block and the rest (R126 to R131) -/

/-- No block is encrypted to no block. -/
@[simp] theorem cbce_nil (t : Tables) (key : Key) (iv : Block) : cbce t [] key iv = [] := rfl

/-- The first block is encrypted under the IV, and the rest under the first ciphertext block (R126, R128). -/
@[simp] theorem cbce_cons (t : Tables) (p : Block) (ps : List Block) (key : Key) (iv : Block) :
    cbce t (p :: ps) key iv = encrypt t (p ^^^ iv) key :: cbce t ps key (encrypt t (p ^^^ iv) key) := rfl

/-- No block is decrypted to no block. -/
@[simp] theorem cbcd_nil (t : Tables) (key : Key) (iv : Block) : cbcd t [] key iv = [] := rfl

/-- The first block is decrypted under the IV, and the rest under the first ciphertext block (R126, R130). -/
@[simp] theorem cbcd_cons (t : Tables) (c : Block) (cs : List Block) (key : Key) (iv : Block) :
    cbcd t (c :: cs) key iv = (decrypt t c key ^^^ iv) :: cbcd t cs key c := rfl

/-- As many ciphertext blocks as plaintext blocks (R131). -/
@[simp] theorem length_cbce (t : Tables) (ps : List Block) (key : Key) (iv : Block) :
    (cbce t ps key iv).length = ps.length := by
  induction ps generalizing iv with
  | nil => rfl
  | cons p ps ih => rw [cbce_cons, List.length_cons, List.length_cons, ih]

/-- As many plaintext blocks as ciphertext blocks (R131). -/
@[simp] theorem length_cbcd (t : Tables) (cs : List Block) (key : Key) (iv : Block) :
    (cbcd t cs key iv).length = cs.length := by
  induction cs generalizing iv with
  | nil => rfl
  | cons c cs ih => rw [cbcd_cons, List.length_cons, List.length_cons, ih]

/-- Settles O24: the IV becomes the first ciphertext block, from which the rest is a `CBCE` of its own. -/
theorem cbcEncryptRecurrence : Obligations.CbcEncryptRecurrence := by
  refine fun t ps key iv => ⟨length_cbce t ps key iv, fun i p c hp hc => ?_⟩
  induction ps generalizing iv i with
  | nil => cases hp
  | cons q ps ih =>
    cases i with
    | zero =>
      obtain rfl := Option.some.inj hp
      obtain rfl := Option.some.inj hc
      rfl
    | succ i => exact ih _ i hp hc

/-- Settles O25: `CBCD` makes its cipher calls independently, each with the feedback beside it. -/
theorem cbcDecryptRecurrence : Obligations.CbcDecryptRecurrence := by
  refine fun t cs key iv => ⟨length_cbcd t cs key iv, fun i c fb hc hfb => ?_⟩
  rw [← parallelDecryptionUnobservable, cbcdParallel, feedbacks, List.getElem?_zipWith, hc, hfb]

/-! ### What a block, a feedback and an IV reach (R132, R134) -/

section
variable {t : Tables} (ht : t.wellFormed = true)
include ht

/-- `CBCD` undoes `CBCE` under the same key and IV: both chain on the ciphertext block (R132). -/
theorem cbcd_cbce (ps : List Block) (key : Key) (iv : Block) : cbcd t (cbce t ps key iv) key iv = ps := by
  induction ps generalizing iv with
  | nil => rfl
  | cons p ps ih =>
    rw [cbce_cons, cbcd_cons, (blockRoundTrip t _ key ht).1, ih, BitVec.xor_assoc, BitVec.xor_self, BitVec.xor_zero]

/-- `Encrypt` keeps blocks apart. -/
theorem encrypt_ne {x y : Block} (h : x ≠ y) (key : Key) : encrypt t x key ≠ encrypt t y key :=
  (encryptIsBijection t key ht).1.injective.ne h

/-- `Decrypt` keeps blocks apart, since `Encrypt` undoes it (R116). -/
theorem decrypt_ne {x y : Block} (h : x ≠ y) (key : Key) : decrypt t x key ≠ decrypt t y key :=
  have hinv : Function.LeftInverse (encrypt t · key) (decrypt t · key) := fun c => (blockRoundTrip t c key ht).2
  hinv.injective.ne h

/-- Different inputs of the first cipher call give different ciphertext blocks throughout: each output is the feedback
of the next block, so the inputs stay different (R134). -/
theorem cbce_getElem?_ne {x y iv iv' : Block} {key : Key} (h : x ^^^ iv ≠ y ^^^ iv') (ps : List Block) {i : Nat}
    (hi : i < (x :: ps).length) : (cbce t (x :: ps) key iv)[i]? ≠ (cbce t (y :: ps) key iv')[i]? := by
  induction i generalizing ps x y iv iv' with
  | zero => simpa using encrypt_ne ht h key
  | succ i ih =>
    cases ps with
    | nil => exact absurd hi (by simp)
    | cons p ps =>
      rw [cbce_cons t x, cbce_cons t y, List.getElem?_cons_succ, List.getElem?_cons_succ]
      exact ih (mt (BitVec.xor_right_inj p).1 (encrypt_ne ht h key)) ps (Nat.lt_of_succ_lt_succ hi)

end

/-- Settles O26: with another IV the first block alone is decrypted otherwise, the rest is the round trip. -/
theorem cbcRoundTrip : Obligations.CbcRoundTrip := by
  refine fun t ps key iv ht => ⟨cbcd_cbce ht ps key iv, fun iv' p => ?_⟩
  rw [cbce_cons, cbcd_cons, (blockRoundTrip t _ key ht).1, cbcd_cbce ht]

/-- Settles O27: block by block up to the changed one the two runs are the same, and from it on they differ. -/
theorem plaintextChangePropagates : Obligations.PlaintextChangePropagates := by
  intro t before after x y key iv ht hxy i hi
  induction before generalizing iv i with
  | nil => exact iff_of_false (cbce_getElem?_ne ht (mt (BitVec.xor_left_inj iv).1 hxy) after hi) (Nat.not_lt_zero i)
  | cons b before ih =>
    cases i with
    | zero => simp
    | succ i => simpa using ih _ i (Nat.lt_of_succ_lt_succ hi)

/-- Another IV changes plaintext block 0 and no other: the later feedbacks are ciphertext blocks (R130, R132). -/
theorem cbcd_getElem?_eq_iff {iv iv' : Block} (h : iv ≠ iv') (t : Tables) (cs : List Block) (key : Key) {i : Nat}
    (hi : i < cs.length) : (cbcd t cs key iv)[i]? = (cbcd t cs key iv')[i]? ↔ i ≠ 0 := by
  cases cs with
  | nil => cases hi
  | cons c cs =>
    cases i with
    | zero => simpa using h
    | succ i => simp

/-- Settles O28: the changed block is decrypted otherwise, and it is the IV of the blocks after it. -/
theorem ciphertextChangeTouchesTwoBlocks : Obligations.CiphertextChangeTouchesTwoBlocks := by
  intro t before after x y key iv ht hxy i hi
  induction before generalizing iv i with
  | nil =>
    cases i with
    | zero => simpa using decrypt_ne ht hxy key
    | succ i => simpa using cbcd_getElem?_eq_iff hxy t after key (Nat.lt_of_succ_lt_succ hi)
  | cons b before ih =>
    cases i with
    | zero => simp
    | succ i => simpa using ih b i (Nat.lt_of_succ_lt_succ hi)

/-! ### The block operations as instructions (R127, R129, log entries 5 and 6) -/

/-- `CBCE_BLOCK` as an instruction is its meaning. -/
theorem exec_cbceBlock (p : Block) (s : State) : exec (.cbceBlock p) s = execCbceBlock p s := rfl

/-- `CBCD_BLOCK` as an instruction is its meaning. -/
theorem exec_cbcdBlock (c : Block) (s : State) : exec (.cbcdBlock c) s = execCbcdBlock c s := rfl

/-- Settles O44: where `FB` and the subkeys hold values the operation goes on to its value, and chains on the
ciphertext block. -/
theorem cbcBlockOperationsComplete : Obligations.CbcBlockOperationsComplete := by
  refine fun s b k1 k2 fb h1 h2 hfb => ⟨?_, ?_⟩
  · rw [exec_cbceBlock, execCbceBlock, cbceBlockOp_some hfb h1 h2]
    rfl
  · rw [exec_cbcdBlock, execCbcdBlock, cbcdBlockOp_some hfb h1 h2]
    rfl

end Sys2Proof.Machine
end

/-! ## The commands (R141 to R147, R150 to R165, R181)

The headers, the data blocks and the end of a request come first, each in the state the table of R141 takes it in, then
the table itself; a message cut in two and the big-step meaning of a request follow. Last the fine steps: a block run
finely ends where the coarse instruction ends, so the fine steps refine the coarse one. -/

section
namespace Sys2Proof.Machine

/-! ### The headers (R142 to R144, R165) -/

/-- A container with one of its upper six bits set holds a key wider than 10 bits (R50). -/
theorem keyTooWide_eq_true {key16 : KeyContainer} (h : keyHigh key16 ≠ 0#6) : keyTooWide key16 = true := by
  simp [keyTooWide, h]

/-- With no request open the violation step writes nothing but `OUTLOG`: `MODE` already is `IDLE` (R165). -/
theorem raiseViolation_of_idle {s : State} (hm : s.mode = .idle) (code : Status) :
    raiseViolation code s = { s with outlog := s.outlog ++ [.done code] } := by
  rw [raiseViolation, ← hm]
  rfl

section
variable {s : State} {key16 : KeyContainer} (hm : s.mode = .idle) (hp : s.phase = .none)
include hm hp

/-- With no request open a header with a 10-bit key is accepted (R141). -/
theorem exec_header_accepts (o : Operation) (arg : Block) (hk : keyHigh key16 = 0#6) :
    exec (o.toInstr key16 arg) s = .next (acceptedState o arg (keyLow key16) s) := by
  rw [exec_header, acceptHeader_accepts _ _ hm hp (keyTooWide_eq_false hk)]

/-- With no request open a header with a wider key is answered by its code, and nothing else is written (R165). -/
theorem exec_header_violates (o : Operation) (arg : Block) (hk : keyHigh key16 ≠ 0#6) :
    exec (o.toInstr key16 arg) s = .next { s with outlog := s.outlog ++ [.done .cvKeyWidth] } := by
  rw [exec_header, acceptHeader_violates _ _ hm hp (keyTooWide_eq_true hk), id, raiseViolation_of_idle hm]

end

/-- What a single-block request leaves behind: the answer in `OUTLOG`, and `OP`, `K1`, `K2`, `S` cleared (R142). -/
theorem answerSingle_latchHeader {s : State} (hp : s.phase = .none) (y : Block) (op : OpCode) (key : Key) :
    answerSingle y (leaveCipher (latchHeader op key s)) = { s with
      outlog := s.outlog ++ [.out y, .done .ok], op := none, k1 := none, k2 := none, roundS := none } := by
  simp [answerSingle, leaveCipher, latchHeader, emit, hp]

/-- Settles O31: an accepted single-block header has answered with its cipher and cleared what it latched. -/
theorem singleBlockAnswers : Obligations.SingleBlockAnswers := by
  refine fun s key16 block hm hp hk => ⟨?_, ?_⟩
  · exact (exec_header_accepts hm hp .encb block hk).trans (congrArg _ (answerSingle_latchHeader hp ..))
  · exact (exec_header_accepts hm hp .decb block hk).trans (congrArg _ (answerSingle_latchHeader hp ..))

/-- Settles O32: an accepted CBC header has latched `OP` and the subkeys and opened the chain. -/
theorem cbcHeaderOpensRequest : Obligations.CbcHeaderOpensRequest := fun _ _ iv hm hp hk =>
  ⟨exec_header_accepts hm hp .enccbc iv hk, exec_header_accepts hm hp .deccbc iv hk⟩

/-- A payload reads back as its status code (R161). -/
theorem statusOf_statusCode (st : Status) : statusOf (statusCode st) = st := by
  cases st <;> rfl

/-- Settles O33: the violation step of every header appends its `DONE`, and `MODE` is already `IDLE`. -/
theorem wideKeyIsRejected : Obligations.WideKeyIsRejected :=
  ⟨⟨rfl, rfl, rfl, rfl, statusOf_statusCode⟩, fun _ op _ arg hm hp hk => exec_header_violates hm hp op arg hk⟩

/-! ### The data blocks and the end of a request (R145 to R147) -/

/-- What a block of a request leaves behind: its `OUT`, the feedback, the count, and `S` cleared (R145, R146). -/
theorem emit_chainOn_leaveCipher {s : State} (hp : s.phase = .none) (y c : Block) :
    emit (.out y) (chainOn c (leaveCipher s)) = { s with
      fb := some c, idx := s.idx + 1, roundS := none, outlog := s.outlog ++ [.out y] } := by
  rw [emit, chainOn, leaveCipher, ← hp]

/-- `DAT` in an open request writes what one block leaves behind, and nothing else. -/
theorem exec_dat_openRequest {op : OpCode} {k1 k2 : Subkey} {fb : Block} {s : State}
    (hs : OpenRequest op k1 k2 fb s) (hc : opChains op = true) (b : Block) :
    exec (.dat b) s = .next { s with
      fb := some (chainBlock (opDecrypts op) s.tables k1 k2 fb b).2, idx := s.idx + 1, roundS := none
      outlog := s.outlog ++ [.out (chainBlock (opDecrypts op) s.tables k1 k2 fb b).1] } := by
  rw [exec_dat, execDat_openRequest hs hc, emit_chainOn_leaveCipher hs.phase]

/-- Settles O34: in an encrypting request the block emitted is also the next feedback. -/
theorem datEncryptsBlock : Obligations.DatEncryptsBlock := fun _ b _ _ _ hm hp hop h1 h2 hfb =>
  exec_dat_openRequest ⟨hm, hp, hop, h1, h2, hfb⟩ rfl b

/-- Settles O35: in a decrypting request the next feedback is the input block. -/
theorem datDecryptsBlock : Obligations.DatDecryptsBlock := fun _ b _ _ _ hm hp hop h1 h2 hfb =>
  exec_dat_openRequest ⟨hm, hp, hop, h1, h2, hfb⟩ rfl b

/-- `END` in an open request closes it (R147). -/
theorem exec_endReq_accepts {s : State} (hm : s.mode = .cbc) (hp : s.phase = .none) :
    exec .endReq s = .next (closeChain s) :=
  acceptInRequest_accepts _ _ hm hp

/-- Settles O36: closing the chain clears every register, and `PHASE` is already `P_NONE`. -/
theorem endClosesRequest : Obligations.EndClosesRequest := fun s hm hp =>
  ⟨closeChain s, exec_endReq_accepts hm hp, ⟨rfl, hp, rfl, rfl, rfl, rfl, rfl, rfl⟩, rfl, rfl, rfl, rfl⟩

/-! ### Which event is accepted where (R141) -/

/-- A header is accepted exactly outside a block with no request open, whatever its key. -/
theorem exec_header_answers_iff (o : Operation) (key16 : KeyContainer) (arg : Block) (s : State) :
    (∃ t, exec (o.toInstr key16 arg) s = .next t) ↔ s.phase = .none ∧ s.mode = .idle := by
  constructor
  · rintro ⟨t, h⟩
    obtain ⟨hp, hm, -⟩ := exec_header_next h
    exact ⟨hp, hm⟩
  · rintro ⟨hp, hm⟩
    by_cases hk : keyHigh key16 = 0#6
    · exact ⟨_, exec_header_accepts hm hp o arg hk⟩
    · exact ⟨_, exec_header_violates hm hp o arg hk⟩

/-- `END` is accepted exactly outside a block with a request open. -/
theorem exec_endReq_answers_iff (s : State) :
    (∃ t, exec .endReq s = .next t) ↔ s.phase = .none ∧ s.mode = .cbc := by
  constructor
  · rintro ⟨t, h⟩
    obtain ⟨hp, hm, -⟩ := execEndReq_next h
    exact ⟨hp, hm⟩
  · rintro ⟨hp, hm⟩
    exact ⟨_, exec_endReq_accepts hm hp⟩

/-- In a valid state `DAT` is accepted exactly with a request open. -/
theorem exec_dat_answers_iff (b : Block) {s : State} (hv : s.valid = true) :
    (∃ t, exec (.dat b) s = .next t) ↔ s.mode = .cbc := by
  constructor
  · rintro ⟨t, h⟩
    obtain ⟨-, hm, -⟩ := execDat_next h
    exact hm
  · exact fun hm => execDat_answers b (betweenBlocks_of_valid hv hm)

/-- An event other than `RESET` is accepted outside a block only. -/
theorem phase_none_of_answers {e : HostEvent} (he : e ≠ .reset) {s t : State}
    (h : exec (decodeEvent e) s = .next t) : s.phase = .none := by
  cases e with
  | hdr w => exact ((exec_header_answers_iff _ _ _ s).1 ⟨t, h⟩).1
  | dat b => exact (execDat_next h).1
  | endReq => exact ((exec_endReq_answers_iff s).1 ⟨t, h⟩).1
  | reset => exact absurd rfl he

/-- A valid state of the coarse machine is outside a block (R26). -/
theorem phase_none_of_valid {s : State} (hv : s.valid = true) : s.phase = .none := by
  obtain ⟨-, hc | hb⟩ := s.valid_iff.1 hv
  · obtain ⟨-, hp, -⟩ := s.closed_iff.1 hc
    exact hp
  · obtain ⟨-, hp, -⟩ := s.betweenBlocks_iff.1 hb
    exact hp

/-- Settles O38: each event has its `MODE`, all but `RESET` need `P_NONE`, and in row 2 of R26 all that `DAT` reads is
there. -/
theorem eventAcceptanceTable : Obligations.EventAcceptanceTable := by
  refine ⟨fun s e hp => ⟨fun ⟨t, h⟩ => ?_, ?_⟩, fun s hv => ⟨fun h => ?_, fun b => ?_, ?_, resetState s, rfl⟩⟩
  · by_contra he
    exact hp (phase_none_of_answers he h)
  · rintro rfl
    exact ⟨resetState s, rfl⟩
  · exact (exec_header_answers_iff _ _ _ s).trans (and_iff_right (phase_none_of_valid hv))
  · exact exec_dat_answers_iff b hv
  · exact (exec_endReq_answers_iff s).trans (and_iff_right (phase_none_of_valid hv))

/-! ### A message cut in two (R147) -/

/-- The blocks after a cut are encrypted under the last ciphertext block before it, or the IV if there is none. -/
theorem cbce_append (t : Tables) (ps qs : List Block) (key : Key) (iv : Block) :
    cbce t (ps ++ qs) key iv = cbce t ps key iv ++ cbce t qs key ((cbce t ps key iv).getLastD iv) := by
  induction ps generalizing iv with
  | nil => rfl
  | cons p ps ih => rw [List.cons_append, cbce_cons, cbce_cons, ih, List.getLastD_cons, List.cons_append]

/-- The blocks after a cut are decrypted under the last ciphertext block before it, or the IV if there is none. -/
theorem cbcd_append (t : Tables) (cs ds : List Block) (key : Key) (iv : Block) :
    cbcd t (cs ++ ds) key iv = cbcd t cs key iv ++ cbcd t ds key (cs.getLastD iv) := by
  induction cs generalizing iv with
  | nil => rfl
  | cons c cs ih => rw [List.cons_append, cbcd_cons, cbcd_cons, ih, List.getLastD_cons, List.cons_append]

/-- Settles O29: the feedback at the cut is the last ciphertext block before it. -/
theorem messageContinuation : Obligations.MessageContinuation := by
  refine fun t ps qs cs ds c key iv => ⟨fun h => ?_, ?_⟩
  · rw [cbce_append, h, List.getLastD_concat]
  · rw [cbcd_append, List.getLastD_concat]

/-! ### The big-step meaning of a request (R155) -/

/-- Every request begins with its header (R47). -/
theorem requestEvents_eq_cons (o : Operation) (key16 : KeyContainer) (arg : Block) (blocks : List Block) :
    requestEvents o key16 arg blocks =
      .hdr (encodeHeader o.code arg key16) :: (requestEvents o key16 arg blocks).tail := rfl

/-- The header of a key wider than 10 bits is consumed alone and answered by its code (R165). -/
theorem step_header_violates {s : State} {o : Operation} {key16 : KeyContainer} {arg : Block} {rest : List HostEvent}
    (hm : s.mode = .idle) (hp : s.phase = .none) (hk : keyHigh key16 ≠ 0#6)
    (hin : s.input = .hdr (encodeHeader o.code arg key16) :: rest) :
    step s = .next { s with outlog := s.outlog ++ [.done .cvKeyWidth], input := rest } := by
  rw [step_cons hin, decodeEvent, decodeHeader_encodeHeader]
  exact exec_header_violates (s := { s with input := rest }) hm hp o arg hk

/-- Settles O51: a request with a 10-bit key runs to its end, one with a wider key ends at its header. -/
theorem requestBigStep : Obligations.RequestBigStep := by
  refine fun s op key16 arg blocks rest hs hin => ⟨fun hk => run_request hs hk hin, fun hk => ?_⟩
  obtain ⟨hm, hp, -⟩ := s.closed_iff.1 hs
  rw [requestEvents_eq_cons, List.cons_append] at hin
  exact run_one (step_header_violates hm hp hk hin)

end Sys2Proof.Machine
end

section
namespace Sys2Proof.Machine

/-! ### A block run finely (R150 to R154, log entry 8) -/

/-- A fine step, then the rest of the fine run. -/
theorem fineRun_succ {f g : FineState} (h : fineStep f = .next g) (n : Nat) : fineRun (n + 1) f = fineRun n g := by
  rw [fineRun, h]

section
variable {s : State} {b y : Block} {g : FineState}

/-- With a block pending the next fine step is the load. -/
theorem fineRun_pending (h : fineLoad b s = .next g) (n : Nat) : fineRun (n + 1) ⟨s, .pending b⟩ = fineRun n g :=
  fineRun_succ (f := ⟨s, .pending b⟩) h n

/-- Inside the cipher the next fine step is a round. -/
theorem fineRun_inside (h : fineRound b s = .next g) (n : Nat) : fineRun (n + 1) ⟨s, .inside b⟩ = fineRun n g :=
  fineRun_succ (f := ⟨s, .inside b⟩) h n

/-- With the result ready the next fine step is the unload. -/
theorem fineRun_ready (h : fineUnload b s = .next g) (n : Nat) : fineRun (n + 1) ⟨s, .ready b⟩ = fineRun n g :=
  fineRun_succ (f := ⟨s, .ready b⟩) h n

/-- With the block handed back the next fine step ends the rule. -/
theorem fineRun_unloaded (h : fineFinish b y s = .next g) (n : Nat) :
    fineRun (n + 1) ⟨s, .unloaded b y⟩ = fineRun n g :=
  fineRun_succ (f := ⟨s, .unloaded b y⟩) h n

end

/-- Inside the block cipher: `S` holds `x`, and `PHASE` names the round that comes next or has just run. -/
def insideCipher (round : Phase) (x : Block) (s : State) : State := { s with roundS := some x, phase := round }

/-- The load of the block `x` (R150). -/
theorem fineLoad_input {s : State} (hp : s.phase = .none) {b x : Block}
    (hx : ∀ use : Block → Host.Outcome FineState Fault Refusal, cipherInput b s use = use x) :
    fineLoad b s = .next ⟨insideCipher .r1 (cryptLoad s.tables x) s, .inside b⟩ := by
  rw [fineLoad, if_neg (not_not.2 hp), hx, insideCipher]

/-- Load, the two rounds and unload of a pending block are the block cipher on its input, with the subkeys in the
order of `OP` (R111, R154). -/
theorem fineRun_cipher {s : State} {op : OpCode} {k1 k2 : Subkey} {b x : Block} (hp : s.phase = .none)
    (hop : s.op = some op) (h1 : s.k1 = some k1) (h2 : s.k2 = some k2)
    (hx : ∀ use : Block → Host.Outcome FineState Fault Refusal, cipherInput b s use = use x) (n : Nat) :
    fineRun (n + 4) ⟨s, .pending b⟩ = fineRun n ⟨leaveCipher s,
      .unloaded b (crypt s.tables x (firstSubkey op k1 k2) (secondSubkey op k1 k2))⟩ :=
  calc
    fineRun (n + 4) ⟨s, .pending b⟩
    _ = fineRun (n + 3) ⟨insideCipher .r1 (cryptLoad s.tables x) s, .inside b⟩ :=
      fineRun_pending (fineLoad_input hp hx) _
    _ = fineRun (n + 2) ⟨insideCipher .r2 (cryptRound1 s.tables _ (firstSubkey op k1 k2)) s, .inside b⟩ :=
      fineRun_inside (fineRound_first (s := insideCipher .r1 _ s) b hop h1 h2 rfl rfl) _
    _ = fineRun (n + 1) ⟨insideCipher .r2 (cryptRound2 s.tables _ (secondSubkey op k1 k2)) s, .ready b⟩ :=
      fineRun_inside (fineRound_second (s := insideCipher .r2 _ s) b hop h1 h2 rfl rfl) _
    _ = fineRun n ⟨leaveCipher s, .unloaded b (cryptUnload s.tables _)⟩ :=
      fineRun_ready (fineUnload_some b rfl) _

/-- A single block run finely from its pending state ends as its coarse header does (R142). -/
theorem fineRun_single {o : Operation} (hc : chained o = false) {s : State} (hp : s.phase = .none) (key : Key)
    (b : Block) :
    fineRun 5 ⟨latchHeader o.code key s, .pending b⟩ = .next ⟨acceptedState o b key s, .idle⟩ := by
  have hplain : (opChains o.code && !opDecrypts o.code) = false := by
    rw [show opChains o.code = false from hc, Bool.false_and]
  rw [fineRun_cipher (s := latchHeader o.code key s) hp rfl rfl rfl (cipherInput_plain rfl hplain b) 1,
    fineRun_unloaded (fineFinish_single b _ rfl hc)]
  cases o with
  | encb | decb => rfl
  | enccbc | deccbc => cases hc

/-- A block of an open request run finely from its pending state ends as its coarse `DAT` does (R145, R146). -/
theorem fineRun_openRequest {op : OpCode} {k1 k2 : Subkey} {fb : Block} {s : State}
    (hs : OpenRequest op k1 k2 fb s) (hc : opChains op = true) (b : Block) :
    fineRun 5 ⟨s, .pending b⟩ = .next ⟨emit (.out (chainBlock (opDecrypts op) s.tables k1 k2 fb b).1)
      (chainOn (chainBlock (opDecrypts op) s.tables k1 k2 fb b).2 (leaveCipher s)), .idle⟩ := by
  obtain rfl | rfl := (opChains_iff op).1 hc
  · rw [fineRun_cipher hs.phase hs.op hs.k1 hs.k2 (cipherInput_fed hs.op rfl hs.fb b) 1]
    exact fineRun_unloaded (s := leaveCipher s) (fineFinish_encrypts b _ hs.op rfl rfl) 0
  · rw [fineRun_cipher hs.phase hs.op hs.k1 hs.k2 (cipherInput_plain hs.op rfl b) 1]
    exact fineRun_unloaded (s := leaveCipher s) (fineFinish_decrypts b _ hs.op rfl rfl hs.fb) 0

/-! ### The first fine step against the coarse step (R154) -/

/-- What a first fine step owes to the coarse outcome: at most five more fine steps to the coarse state, or the same
fault. -/
def RefinedBy (fine : Host.Outcome FineState Fault Refusal) (coarse : Host.Outcome State Fault Refusal) : Prop :=
  (∀ t, coarse = .next t → ∃ g n, fine = .next g ∧ n ≤ 5 ∧ fineRun n g = .next ⟨t, .idle⟩) ∧
    ∀ r, coarse = .fault r → fine = .fault r

/-- A next state from which at most five fine steps reach the coarse state. -/
theorem RefinedBy.of_fineRun {g : FineState} {t : State} {n : Nat} (hn : n ≤ 5) (h : fineRun n g = .next ⟨t, .idle⟩) :
    RefinedBy (.next g) (.next t) :=
  ⟨fun _ ht => by cases ht; exact ⟨g, n, rfl, hn, h⟩, nofun⟩

/-- The same fault. -/
theorem RefinedBy.of_fault (r : Fault) : RefinedBy (.fault r) (.fault r) :=
  ⟨nofun, fun _ hr => by cases hr; rfl⟩

/-- An instruction that a fine step runs whole. -/
theorem RefinedBy.of_settled (coarse : Host.Outcome State Fault Refusal) : RefinedBy (settled coarse) coarse := by
  cases coarse with
  | next t => exact .of_fineRun (Nat.zero_le 5) rfl
  | fault r => exact .of_fault r
  | refused r => exact ⟨nofun, nofun⟩

/-- The header check is the same in both machines, so an accepted key alone is left to compare. -/
theorem RefinedBy.of_acceptHeader {key16 : KeyContainer} {s : State}
    {fine : Key → Host.Outcome FineState Fault Refusal} {coarse : Key → Host.Outcome State Fault Refusal}
    (h : s.phase = .none → RefinedBy (fine (keyLow key16)) (coarse (keyLow key16))) :
    RefinedBy (acceptHeader key16 s (fun s' => ⟨s', .idle⟩) fine) (acceptHeader key16 s id coarse) := by
  unfold acceptHeader
  split
  · exact .of_fault _
  next hp =>
    split
    · exact .of_fault _
    split
    · exact .of_fineRun (Nat.zero_le 5) rfl
    · exact h (not_not.1 hp)

/-- `DAT` and `END` with no request open have no transition (R168). -/
theorem acceptInRequest_idle {σ : Type} (whyNot : Fault) {s : State} (accepted : Host.Outcome σ Fault Refusal)
    (hm : s.mode = .idle) (hp : s.phase = .none) : acceptInRequest whyNot s accepted = .fault whyNot := by
  rw [acceptInRequest, if_neg (not_not.2 hp), if_pos hm]

/-- A fine single-block header latches and leaves its block pending. -/
theorem fineAccept_single {o : Operation} (hc : chained o = false) (key16 : KeyContainer) (arg : Block) (s : State) :
    fineAccept (o.toInstr key16 arg) s =
      acceptHeader key16 s (fun s' => ⟨s', .idle⟩) fun key => .next ⟨latchHeader o.code key s, .pending arg⟩ := by
  cases o with
  | encb | decb => rfl
  | enccbc | deccbc => cases hc

/-- A fine CBC header is taken whole. -/
theorem fineAccept_chained {o : Operation} (hc : chained o = true) (key16 : KeyContainer) (arg : Block) (s : State) :
    fineAccept (o.toInstr key16 arg) s = settled (exec (o.toInstr key16 arg) s) := by
  cases o with
  | encb | decb => cases hc
  | enccbc | deccbc => rfl

/-- A header taken finely refines the coarse one: a single block is run to its answer, a CBC header is taken whole. -/
theorem fineAccept_header_refines (o : Operation) (key16 : KeyContainer) (arg : Block) (s : State) :
    RefinedBy (fineAccept (o.toInstr key16 arg) s) (exec (o.toInstr key16 arg) s) := by
  cases hc : chained o with
  | false =>
    rw [exec_header, fineAccept_single hc]
    exact .of_acceptHeader fun hp => .of_fineRun le_rfl (fineRun_single hc hp (keyLow key16) arg)
  | true =>
    rw [fineAccept_chained hc]
    exact .of_settled _

/-- The two operations of row 2 of R26 make a valid state with a request open an open request. -/
theorem openRequest_of_valid {s : State} (hv : s.valid = true) (hm : s.mode = .cbc) :
    ∃ op k1 k2 fb, opChains op = true ∧ OpenRequest op k1 k2 fb s := by
  obtain ⟨-, hp, hop, ⟨k1, h1⟩, ⟨k2, h2⟩, -, fb, hfb⟩ := s.betweenBlocks_iff.1 (betweenBlocks_of_valid hv hm)
  obtain hop | hop := hop <;> exact ⟨_, k1, k2, fb, rfl, hm, hp, hop, h1, h2, hfb⟩

/-- A `DAT` taken finely in a valid state refines the coarse one: with a request open its block is run to its `OUT`. -/
theorem fineAccept_dat_refines (b : Block) {s : State} (hv : s.valid = true) :
    RefinedBy (fineAccept (.dat b) s) (exec (.dat b) s) := by
  rw [exec_dat, fineAccept]
  cases hm : s.mode with
  | idle =>
    have hp := phase_none_of_valid hv
    rw [execDat, acceptInRequest_idle _ _ hm hp, acceptInRequest_idle _ _ hm hp]
    exact .of_fault _
  | cbc =>
    obtain ⟨op, k1, k2, fb, hc, hs⟩ := openRequest_of_valid hv hm
    rw [execDat_openRequest hs hc, acceptInRequest_accepts _ _ hm hs.phase]
    exact .of_fineRun le_rfl (fineRun_openRequest hs hc b)

/-- An event taken finely in a valid state refines the coarse one. -/
theorem fineAccept_refines (e : HostEvent) {s : State} (hv : s.valid = true) :
    RefinedBy (fineAccept (decodeEvent e) s) (exec (decodeEvent e) s) := by
  cases e with
  | hdr w => exact fineAccept_header_refines _ _ _ s
  | dat b => exact fineAccept_dat_refines b hv
  | endReq | reset => exact .of_settled _

/-- With nothing in progress and no event waiting a fine step changes nothing. -/
theorem fineStep_nil {s : State} (hin : s.input = []) : fineStep ⟨s, .idle⟩ = .next ⟨s, .idle⟩ := by
  simp only [fineStep, hin]

/-- With nothing in progress and an event waiting a fine step takes it. -/
theorem fineStep_cons {s : State} {e : HostEvent} {rest : List HostEvent} (hin : s.input = e :: rest) :
    fineStep ⟨s, .idle⟩ = fineAccept (decodeEvent e) { s with input := rest } := by
  simp only [fineStep, hin]

/-- The first fine step from a valid state refines the coarse step: both wait, or both take the next event. -/
theorem fineStep_refines {s : State} (hv : s.valid = true) : RefinedBy (fineStep ⟨s, .idle⟩) (step s) := by
  cases hin : s.input with
  | nil =>
    rw [fineStep_nil hin, step_nil hin]
    exact .of_fineRun (Nat.zero_le 5) rfl
  | cons e rest =>
    rw [fineStep_cons hin, step_cons hin]
    exact fineAccept_refines e (s := { s with input := rest }) hv

/-- Settles O56: one fine step takes the event, and at most five more run its block. -/
theorem fineStepsRefineCoarse : Obligations.FineStepsRefineCoarse := by
  intro s hv
  obtain ⟨hnext, hfault⟩ := fineStep_refines hv
  refine ⟨fun t ht => ?_, hfault⟩
  obtain ⟨g, n, hg, hn, hrun⟩ := hnext t ht
  exact ⟨n + 1, Nat.succ_pos n, Nat.succ_le_succ hn, (fineRun_succ hg n).trans hrun⟩

/-! ### `RESET` inside a block (R141, R181) -/

/-- The fine invariant holds of well-formed `TABLES` only. -/
theorem wellFormed_of_fineValid {f : FineState} (hv : f.valid = true) : f.core.tables.wellFormed = true := by
  rw [FineState.valid, Bool.and_eq_true] at hv
  exact hv.1

/-- The state after `RESET` has no request open (R28, R180). -/
theorem resetState_closed (s : State) : (resetState s).closed = true := rfl

/-- Settles O58: `RESET` leads to row 1 of R26 with the log as it was, and each other event is a fault. -/
theorem fineResetInsideBlock : Obligations.FineResetInsideBlock := by
  intro f e hv _
  constructor
  · rintro rfl
    exact ⟨⟨resetState f.core, .idle⟩, rfl, rfl, resetState_closed f.core, rfl,
      (State.valid_iff _).2 ⟨wellFormed_of_fineValid (f := f) hv, .inl (resetState_closed f.core)⟩⟩
  · intro he
    cases e with
    | hdr | dat | endReq => rfl
    | reset => exact absurd rfl he

end Sys2Proof.Machine
end

/-! ## Out-of-grammar events and the boundary checks (R163, R166, R168, R170)

An event outside the request grammar stops at the acceptance of its instruction, before any register is read. At the
abstract boundary the checks come in their order, a failed one is answered by its code, and a bit string of length 8 is
the block with these cells. -/

section
namespace Sys2Proof.Machine

/-! ### Events with no transition (R141, R168) -/

/-- A header with a request open has no transition, whatever its key. -/
theorem acceptHeader_whileOpen {σ : Type} (key16 : KeyContainer) {s : State} (violated : State → σ)
    (accepted : Key → Host.Outcome σ Fault Refusal) (hm : s.mode = .cbc) (hp : s.phase = .none) :
    acceptHeader key16 s violated accepted = .fault .hdrWhileOpen := by
  rw [acceptHeader, if_neg (not_not.2 hp), if_pos hm]

/-- A header inside a block has no transition. -/
theorem acceptHeader_insideBlock {σ : Type} (key16 : KeyContainer) {s : State} (violated : State → σ)
    (accepted : Key → Host.Outcome σ Fault Refusal) (hp : s.phase ≠ .none) :
    acceptHeader key16 s violated accepted = .fault .eventInsideBlock :=
  if_pos hp

/-- `DAT` and `END` inside a block have no transition. -/
theorem acceptInRequest_insideBlock {σ : Type} (whyNot : Fault) {s : State} (accepted : Host.Outcome σ Fault Refusal)
    (hp : s.phase ≠ .none) : acceptInRequest whyNot s accepted = .fault .eventInsideBlock :=
  if_pos hp

/-- Inside a block every event but `RESET` stops at its acceptance. -/
theorem exec_decodeEvent_insideBlock {s : State} (hp : s.phase ≠ .none) {e : HostEvent} (he : e ≠ .reset) :
    exec (decodeEvent e) s = .fault .eventInsideBlock := by
  cases e with
  | hdr w => exact (exec_header _ _ _ s).trans (acceptHeader_insideBlock _ _ _ hp)
  | dat b => exact acceptInRequest_insideBlock _ _ hp
  | endReq => exact acceptInRequest_insideBlock _ _ hp
  | reset => exact absurd rfl he

/-- Settles O39: each event is refused by the acceptance of its instruction, before anything it guards. -/
theorem outOfGrammarEventsStop : Obligations.OutOfGrammarEventsStop := by
  refine ⟨fun s op key16 arg hp hm => ?_, fun s b hp hm => ?_, fun s hp hm => ?_, fun s e hp he => ?_⟩
  · rw [exec_header, acceptHeader_whileOpen _ _ _ hm hp]
  · exact acceptInRequest_idle _ _ hm hp
  · exact acceptInRequest_idle _ _ hm hp
  · exact exec_decodeEvent_insideBlock hp he

/-! ### The order of the checks (R166, R170) -/

/-- A request that fails a check is answered by the code of that check alone. -/
theorem answerRequest_of_failed (t : Tables) {r : Request} {code : Status} (h : checkRequest r = code)
    (hcode : code ≠ .ok) : answerRequest t r = [.done code] := by
  rw [answerRequest, h]
  cases code with
  | ok => exact absurd rfl hcode
  | cvKeyWidth | cvBlockWidth | cvBufferLength => rfl

/-- The key is checked first. -/
theorem checkRequest_wideKey {r : Request} (hk : 2 ^ 10 ≤ r.key) : checkRequest r = .cvKeyWidth :=
  if_pos hk

section
variable {r : Request} (hk : r.key < 2 ^ 10)
include hk

/-- The block or IV is checked second. -/
theorem checkRequest_badArg (ha : r.arg.fits = false) : checkRequest r = .cvBlockWidth := by
  rw [checkRequest, if_neg (Nat.not_le.2 hk), if_pos (by simp [ha])]

/-- The buffer of a CBC operation is checked third. -/
theorem checkRequest_cutBuffer (ha : r.arg.fits = true) (hc : chained r.op = true) (hd : r.data.length % 8 ≠ 0) :
    checkRequest r = .cvBufferLength := by
  rw [checkRequest, if_neg (Nat.not_le.2 hk), if_neg (not_not.2 ha), if_pos ⟨hc, hd⟩]

/-- A buffer on a single block is checked last. -/
theorem checkRequest_strayBuffer (ha : r.arg.fits = true) (hc : chained r.op = false) (hd : r.data ≠ []) :
    checkRequest r = .cvBlockWidth := by
  have hlen : r.data.length ≠ 0 := mt List.length_eq_zero_iff.1 hd
  rw [checkRequest, if_neg (Nat.not_le.2 hk), if_neg (not_not.2 ha), if_neg (by simp [hc]), if_pos ⟨by simp [hc], hlen⟩]

end

/-! ### The two forms of a block operand (R163) -/

/-- The last bit of a bit string is the lowest bit of its integer. -/
theorem natOfBits_concat (bs : List Bool) (b : Bool) : natOfBits (bs ++ [b]) = Nat.bit b (natOfBits bs) := by
  rw [natOfBits, List.foldl_concat, ← natOfBits, Nat.bit_val]

/-- The bits of the integer of a bit string are the string read backward. -/
theorem testBit_natOfBits (bs : List Bool) (i : Nat) : (natOfBits bs).testBit i = bs.reverse[i]?.getD false := by
  induction bs using List.reverseRecOn generalizing i with
  | nil => simp [natOfBits]
  | append_singleton bs b ih =>
    rw [natOfBits_concat]
    cases i with
    | zero => simp
    | succ i => simp [Nat.testBit_bit_succ, ih]

/-- A bit string of length `w` is the `w`-bit value whose cell `i` is its bit `i` (R7). -/
theorem cell_ofNat_natOfBits {w : Nat} {bs : List Bool} (hlen : bs.length = w) {i : Nat} (hi : i < w) :
    bs[i]? = some (cell (BitVec.ofNat w (natOfBits bs)) i) := by
  subst hlen
  have hback : bs.length - 1 - (bs.length - 1 - i) = i := by omega
  have hlow : bs.length - 1 - i < bs.length := by omega
  rw [cell, BitVec.getMsbD, BitVec.getLsbD_ofNat, testBit_natOfBits, List.getElem?_reverse hlow, hback]
  simp [hi, hlow]

/-- Settles O55: the checks in their order, and the two forms of an operand that fits. -/
theorem boundaryCheckOrder : Obligations.BoundaryCheckOrder := by
  refine fun t r => ⟨fun hk => ?_, fun n hk harg hn => ?_, fun bs hk harg hlen => ?_, fun hk ha hop hd => ?_,
    fun hk ha hop hd => ?_, fun n harg hn => ?_, fun bs harg hlen => ?_⟩
  · exact answerRequest_of_failed t (checkRequest_wideKey hk) (by decide)
  · have ha : r.arg.fits = false := by rw [harg, BlockOperand.fits_number, decide_eq_false (Nat.not_lt.2 hn)]
    exact answerRequest_of_failed t (checkRequest_badArg hk ha) (by decide)
  · have ha : r.arg.fits = false := by rw [harg, BlockOperand.fits_bits, beq_eq_false_iff_ne.2 hlen]
    exact answerRequest_of_failed t (checkRequest_badArg hk ha) (by decide)
  · have hc : chained r.op = true := by obtain hop | hop := hop <;> rw [hop] <;> rfl
    exact answerRequest_of_failed t (checkRequest_cutBuffer hk ha hc hd) (by decide)
  · have hc : chained r.op = false := by obtain hop | hop := hop <;> rw [hop] <;> rfl
    exact answerRequest_of_failed t (checkRequest_strayBuffer hk ha hc hd) (by decide)
  · rw [harg, BlockOperand.fits_number, BlockOperand.value_number, BitVec.toNat_ofNat]
    exact ⟨decide_eq_true hn, Nat.mod_eq_of_lt hn⟩
  · rw [harg, BlockOperand.fits_bits]
    exact ⟨beq_iff_eq.2 hlen, fun i hi => cell_ofNat_natOfBits hlen hi⟩

end Sys2Proof.Machine
end

section
namespace Sys2Proof.Machine

/-! ### `RESET` (R180, R181) -/

/-- `RESET` is accepted in every state, and leads to one state. -/
theorem exec_reset (s : State) : exec .reset s = .next (resetState s) := rfl

/-- A `RESET` at the head of the queue is consumed, and leads to the reset state over the rest of the queue. -/
theorem step_reset {s : State} {rest : List HostEvent} (hin : s.input = .reset :: rest) :
    step s = .next (resetState { s with input := rest }) :=
  (step_cons hin).trans (exec_reset _)

/-- After `RESET` the registers are in row 1 of R26, which is their reset values (R28). -/
theorem resetState_registersReset (s : State) : (resetState s).registersReset :=
  (State.closed_iff _).1 (resetState_closed s)

/-- Settles O37: by itself and from the queue `RESET` leads to `resetState`, whose fields the laws of that state name. -/
theorem resetFromEveryState : Obligations.ResetFromEveryState := by
  refine ⟨fun s => ⟨_, exec_reset s, resetState_registersReset s, ?_⟩,
    fun s rest hin => ⟨_, step_reset hin, resetState_registersReset _, ?_⟩⟩
  · exact ⟨resetState_outlog s, resetState_tables s, resetState_input s, resetState_result s⟩
  · exact ⟨resetState_outlog _, resetState_tables _, resetState_input _⟩

end Sys2Proof.Machine
end
